-- ==== Sys2Proof/Word.lean ====
section
/-! DEFINITION. The two word types of CP-LINK (spec/00_scope.md R9): bytes and 32-bit words. -/

namespace Sys2Proof

/-- A byte, `u8` or the bits of an `i8` (R9). -/
abbrev Byte := BitVec 8

/-- A 32-bit word, `u32` (R9): a host-port register, a command word, a clock sample. -/
abbrev Word := BitVec 32

end Sys2Proof
end

