-- ==== Sys2Proof/Config.lean ====
section
/-! DEFINITION. The bus events (00_scope.md R10, 30_encoding.md R74), the parameters of a build (00_scope.md R6), the
default `DEVICE_MAP` (30_encoding.md R64 to R70), and the free values: constants with no body, of which nothing can be
proved but what their types say. -/

namespace Sys2Proof

/-- One event of the sequencer as `DEV` sees it (R10, R74), and the mark of a reset (70_reset_and_hazards.md R148).
The MISO byte of an `xfer` is not part of the event: it stands in `State.answers`. -/
inductive Event where
  /-- The chip-select line was driven to this level, `true` = high = deasserted. -/
  | csn (level : Bool)
  /-- The chip-enable line was driven to this level. -/
  | ce (level : Bool)
  /-- One byte was exchanged; this is the byte on MOSI. -/
  | xfer (mosi : Byte)
  /-- A wait of at least so many microseconds. -/
  | wait (us : Nat)
  /-- The clock was read and showed this value. -/
  | now (t : Word)
  /-- CP-LINK was reset here. `DEV` is not reset by it (R149). -/
  | reset
deriving DecidableEq, Repr

/-- The SPI clock's polarity, phase and bit order (20_memory.md R47). -/
structure SpiMode where
  cpol : Bool
  cpha : Bool
  lsbFirst : Bool
deriving DecidableEq, Repr, Inhabited

namespace Config

/-! ### Free values -/

/-- The MISO byte of the `n`-th draw, when `history` is all the block has sent so far (newest first) and `mosi` is the
byte on MOSI: an oracle draw under no law (R11). DESIGN CHOICE (log 3), safe. -/
opaque misoDraw (n : Nat) (history : List Event) (mosi : Byte) : Byte

/-- By how many milliseconds true time runs past the least value the clock laws allow, at the `n`-th draw
(60_exceptions.md R140). DESIGN CHOICE (log 4), safe. -/
opaque clockAdvance (n : Nat) (history : List Event) : Nat

/-- After how many polls without a flag the fairness law (60_exceptions.md R140, law 3) has brought a SEND, whose loop
begins at the `n`-th draw, to its deadline. DESIGN CHOICE (log 4), safe. -/
opaque sendPatience (n : Nat) (history : List Event) : Nat

/-- What an illegal host read returns at the `n`-th draw (10_state.md R15; I15). DESIGN CHOICE (log 12), safe. -/
opaque hostDraw (n : Nat) : Word

/-- What a host read returns for the DBUF byte `i`, which nothing has written, at the `n`-th draw (10_state.md R17, R18;
I16, I21). DESIGN CHOICE (log 12), safe. -/
opaque unwrittenByte (n i : Nat) : Byte

/-- What RXCYCLE decodes as the packet's byte `i` where nothing has written it, at the `n`-th draw
(46_link_consumer.md R125). A constant apart from `unwrittenByte`, since the spec relates the two nowhere. DESIGN CHOICE
(log 11), safe. -/
opaque packetByteDraw (n i : Nat) : Byte

/-! ### OPEN parameters (R6, R165): fixed for a build, with no value in the spec (log 8) -/

/-- `T_PWRUP_US`: the power-up settle time in µs, OPEN (43_transceiver_control.md R90). -/
opaque tPwrupUs : Nat

/-- `RX_CYCLE_MS`: the post-cycle delay of the receiver cycle in ms, OPEN (46_link_consumer.md R125). -/
opaque rxCycleMs : Nat

/-- `T_POR_MS`: the device's power-on time in ms, OPEN (70_reset_and_hazards.md R165). The block does not enforce it,
so no definition reads it. -/
opaque tPorMs : Nat

/-- `SPI_MODE`, OPEN. The model works on whole bytes and no rule depends on it (20_memory.md R47). -/
opaque spiMode : SpiMode

/-- The unbounded number behind `DEADZONE`. -/
opaque deadzoneRaw : Nat

/-- `DEADZONE`, OPEN in 0..128 (44_packet_framer.md R103): every value of that range is some `deadzoneRaw`'s. -/
def deadzone : Nat := deadzoneRaw % 129

/-- `POLL_WAIT_US`: the wait between two status polls of SEND in µs, OPEN (45_ack_sequencer.md R112; log 5). -/
opaque pollWaitUs : Nat

/-- The unconstrained map behind `AXIS_MAP`. -/
opaque axisRaw : BitVec 10 → Byte

/-- Whether a map from samples to `i8` is monotonic, rising or falling (44_packet_framer.md R105, obligation 2), tested
on neighbouring samples. -/
def axisLawful (f : BitVec 10 → Byte) : Bool :=
  ((List.range 1023).all fun a => (f (BitVec.ofNat 10 a)).toInt ≤ (f (BitVec.ofNat 10 (a + 1))).toInt) ||
    (List.range 1023).all fun a => (f (BitVec.ofNat 10 (a + 1))).toInt ≤ (f (BitVec.ofNat 10 a)).toInt

/-- `AXIS_MAP`, OPEN (44_packet_framer.md R105): any map into -128..127 that is monotonic. Every lawful map is some
`axisRaw`'s; an `axisRaw` that is not lawful stands for the constant map 0, a lawful one. DESIGN CHOICE (log 6), safe. -/
def axisMap (a : BitVec 10) : Int := if axisLawful axisRaw then (axisRaw a).toInt else 0

/-! ### Parameters with a value (R6) -/

/-- `PAYLOAD_MAX` (R6): the device's longest payload. -/
def payloadMax : Nat := 32
/-- `PAYLOAD_DEFAULT` (R6). -/
def payloadDefault : Nat := 32
/-- `PAYLOAD_MIN` (R6). -/
def payloadMin : Nat := 1
/-- `CHANNEL_MAX` (R6). -/
def channelMax : Nat := 125
/-- `PIPE_COUNT` (R6). -/
def pipeCount : Nat := 6
/-- `ADDR_WIDTH` (R6). -/
def addrWidth : Nat := 5
/-- `PACKET_LEN` (R6). -/
def packetLen : Nat := 4
/-- `LINK_ADDRESS` (R6, 20_memory.md R46): the text "00001"; a host passes it to OPENW and OPENR (10_state.md R38). -/
def linkAddress : List Byte := [0x30, 0x30, 0x30, 0x30, 0x31]
/-- `LINK_CHANNEL` (R6): a host passes it to SETCH (10_state.md R38). -/
def linkChannel : Byte := 76
/-- `T_CSN_US` (R6). -/
def tCsnUs : Nat := 1
/-- `T_CE_PULSE_US` (R6). -/
def tCePulseUs : Nat := 10
/-- `T_MODE_US` (R6). -/
def tModeUs : Nat := 130
/-- `SEND_TIMEOUT_MS` (R6). -/
def sendTimeoutMs : Nat := 50
/-- `TX_CYCLE_MS` (R6). -/
def txCycleMs : Nat := 20
/-- `TURN_THRESHOLD` (R6). -/
def turnThreshold : Int := 100
/-- `MOTOR_SCALE` (R6). -/
def motorScale : Nat := 2
/-- `PWM_MAX` (R6). -/
def pwmMax : Nat := 255
/-- `LOS_HOLD_CYCLES` (R6): 0, the fail-open receiver (90_conflicts.md C2). -/
def losHoldCycles : Nat := 0
/-- `DYNAMIC_PAYLOADS` (R6): false (90_conflicts.md C10). -/
def dynamicPayloads : Bool := false
/-- `PAD_BYTE` (R6). -/
def padByte : Byte := 0x00
/-- `DUMMY_BYTE` (R6). -/
def dummyByte : Byte := 0xFF

/-! ### `DEVICE_MAP` (30_encoding.md R64 to R70). The spec takes its default from general knowledge of the nRF24L01;
PRESUMED (log 21), unsafe for a build with another map. -/

/-- Device register CONFIG (R64). -/
def regConfig : Byte := 0x00
/-- Device register EN_AA (R64). -/
def regEnAa : Byte := 0x01
/-- Device register EN_RXADDR (R64). -/
def regEnRxaddr : Byte := 0x02
/-- Device register RF_CH (R64). -/
def regRfCh : Byte := 0x05
/-- Device register STATUS (R64). -/
def regStatus : Byte := 0x07
/-- Device register TX_ADDR (R64). -/
def regTxAddr : Byte := 0x10
/-- Device register RX_ADDR_P(p) (R70). -/
def regRxAddr (p : Nat) : Byte := 0x0A + BitVec.ofNat 8 p
/-- Device register RX_PW_P(p) (R70). -/
def regRxPw (p : Nat) : Byte := 0x11 + BitVec.ofNat 8 p

/-- CONFIG bit PRIM_RX (R65). -/
def configPrimRx : Byte := 0x01
/-- The value BEGIN writes to CONFIG: EN_CRC and PWR_UP (R65, 43_transceiver_control.md R90). -/
def configPowerUp : Byte := 0x0A
/-- `M_MAX_RT`, the nack flag (R66). -/
def maskMaxRt : Byte := 0x10
/-- `M_TX_DS`, the ack flag (R66). -/
def maskTxDs : Byte := 0x20
/-- `M_RX_DR`, the "data ready" flag (R66). -/
def maskRxDr : Byte := 0x40

/-- SPI command byte R_REGISTER of a register number (R68). -/
def cmdReadRegister (reg : Byte) : Byte := 0x00 ||| reg
/-- SPI command byte W_REGISTER of a register number (R68). -/
def cmdWriteRegister (reg : Byte) : Byte := 0x20 ||| reg
/-- SPI command byte R_RX_PAYLOAD (R68). -/
def cmdReadRxPayload : Byte := 0x61
/-- SPI command byte W_TX_PAYLOAD (R68). -/
def cmdWriteTxPayload : Byte := 0xA0
/-- SPI command byte FLUSH_TX (R68). -/
def cmdFlushTx : Byte := 0xE1

end Config

end Sys2Proof
end

