-- ==== Sys2Proof/Syntax.lean ====
section
/-! DEFINITION. The instructions: one constructor per row of spec/opcode_table.json. 24 host commands (30_encoding.md
R59, R60) with the operand fields that R60 leaves free, and the 5 SPI command bytes (R68). -/

namespace Sys2Proof

/-- CP-LINK's instructions. `a`, `b`, `c` are the bytes A, B, C of format G (R57); `ax`, `ay`, `trg`, `sw` the fields of
format F (R58), a pin level being `true` when high. -/
inductive Instr where
  /-- XFER c: exchange the byte `c` (R76). -/
  | xfer (c : Byte)
  /-- CSN a: assert (1) or deassert (0) chip-select (R77). -/
  | csn (a : Byte)
  /-- CE a: drive chip-enable (R78). -/
  | ce (a : Byte)
  /-- WREG reg, n: write a device register (R82). -/
  | wreg (a b : Byte)
  /-- RREG reg: read one device register (R84). -/
  | rreg (a : Byte)
  /-- RREGB reg, n: read `n` bytes of a device register (R85). -/
  | rregb (a b : Byte)
  /-- WPAY n, c: write a payload with the command byte `c` (R86). -/
  | wpay (b c : Byte)
  /-- RPAY n: read a payload (R87). -/
  | rpay (b : Byte)
  /-- FLUSHTX: empty the TX FIFO (R88). -/
  | flushtx
  /-- BEGIN: bring the transceiver up (R90). -/
  | beginLink
  /-- SETCH c: set the RF channel (R91). -/
  | setch (c : Byte)
  /-- SETPS c: set the payload size (R92). -/
  | setps (c : Byte)
  /-- OPENW: set the writing-pipe address (R93). -/
  | openw
  /-- OPENR p: set a reading-pipe address (R94). -/
  | openr (a : Byte)
  /-- STARTL: enter listening mode (R95). -/
  | startl
  /-- STOPL: leave listening mode (R96). -/
  | stopl
  /-- FRAME ax, ay, trg, sw: build the control packet in DBUF (R106). -/
  | frame (ax ay : BitVec 10) (trg sw : Bool)
  /-- SEND n: send a payload and wait for its ack or nack (R109). -/
  | send (b : Byte)
  /-- AVAIL: poll for a received payload (R117). -/
  | avail
  /-- READ n: take one received payload (R118). -/
  | read (b : Byte)
  /-- DEBOUNCE p: one sample of the edge detector (R120). -/
  | debounce (a : Byte)
  /-- RXCYCLE b: one receiver control cycle (R125). -/
  | rxcycle (a : Byte)
  /-- MOTORMAP: map the packet in DBUF to the motors (R124). -/
  | motormap
  /-- TXCYCLE ax, ay, trg, sw: one transmitter control cycle (R126). -/
  | txcycle (ax ay : BitVec 10) (trg sw : Bool)
  /-- SPI command byte R_REGISTER (R68). -/
  | spiRRegister (reg : Byte)
  /-- SPI command byte W_REGISTER (R68). -/
  | spiWRegister (reg : Byte)
  /-- SPI command byte R_RX_PAYLOAD (R68). -/
  | spiRRxPayload
  /-- SPI command byte W_TX_PAYLOAD (R68). -/
  | spiWTxPayload
  /-- SPI command byte FLUSH_TX (R68). -/
  | spiFlushTx
deriving DecidableEq, Repr

/-- The mnemonic of the opcode table. -/
def Instr.mnemonic : Instr → String
  | .xfer _ => "XFER"
  | .csn _ => "CSN"
  | .ce _ => "CE"
  | .wreg _ _ => "WREG"
  | .rreg _ => "RREG"
  | .rregb _ _ => "RREGB"
  | .wpay _ _ => "WPAY"
  | .rpay _ => "RPAY"
  | .flushtx => "FLUSHTX"
  | .beginLink => "BEGIN"
  | .setch _ => "SETCH"
  | .setps _ => "SETPS"
  | .openw => "OPENW"
  | .openr _ => "OPENR"
  | .startl => "STARTL"
  | .stopl => "STOPL"
  | .frame _ _ _ _ => "FRAME"
  | .send _ => "SEND"
  | .avail => "AVAIL"
  | .read _ => "READ"
  | .debounce _ => "DEBOUNCE"
  | .rxcycle _ => "RXCYCLE"
  | .motormap => "MOTORMAP"
  | .txcycle _ _ _ _ => "TXCYCLE"
  | .spiRRegister _ => "SPI_R_REGISTER"
  | .spiWRegister _ => "SPI_W_REGISTER"
  | .spiRRxPayload => "SPI_R_RX_PAYLOAD"
  | .spiWTxPayload => "SPI_W_TX_PAYLOAD"
  | .spiFlushTx => "SPI_FLUSH_TX"

/-- Whether an instruction is an SPI command byte, not a host command word (R68). -/
def Instr.isSpi : Instr → Bool
  | .spiRRegister _ | .spiWRegister _ | .spiRRxPayload | .spiWTxPayload | .spiFlushTx => true
  | .xfer _ | .csn _ | .ce _ | .wreg _ _ | .rreg _ | .rregb _ _ | .wpay _ _ | .rpay _ | .flushtx | .beginLink
  | .setch _ | .setps _ | .openw | .openr _ | .startl | .stopl | .frame _ _ _ _ | .send _ | .avail | .read _
  | .debounce _ | .rxcycle _ | .motormap | .txcycle _ _ _ _ => false

/-- Why the decoder refuses some bytes (R61, R62). -/
inductive DecodeError where
  /-- The OP field is 0x00 or unassigned (R62). -/
  | unassignedOpcode (op : Byte)
  /-- A field that must be zero is not, or a one-bit field is above 1 (R61). -/
  | illegalField (op : Byte)
  /-- The byte is none of the five SPI command bytes (R68). -/
  | notAnSpiCommand (b : Byte)
  /-- Neither one byte nor one 32-bit word (R56). -/
  | badLength (n : Nat)
deriving DecidableEq, Repr

end Sys2Proof
end

