-- ==== Sys2Proof/WellFormed.lean ====
section
/-! DEFINITION. Which instruction terms stand for a legal word: the field checks of 30_encoding.md R60 that an operand's
type does not already make. -/

namespace Sys2Proof

/-- A one-bit operand in a whole byte: 0 or 1 (R60). -/
def isLevel (a : Byte) : Bool := a.toNat < 2

/-- A device register number in a whole byte: A[7:5] = 0 (R60). -/
def isRegister (a : Byte) : Bool := a.toNat < 32

/-- An instruction whose operands R60 allows. -/
def Instr.wellFormed : Instr → Bool
  | .csn a | .ce a | .debounce a | .rxcycle a => isLevel a
  | .wreg a _ | .rreg a | .rregb a _ => isRegister a
  | .spiRRegister reg | .spiWRegister reg => isRegister reg
  | .xfer _ | .wpay _ _ | .rpay _ | .flushtx | .beginLink | .setch _ | .setps _ | .openw | .openr _ | .startl | .stopl
  | .frame _ _ _ _ | .send _ | .avail | .read _ | .motormap | .txcycle _ _ _ _ | .spiRRxPayload | .spiWTxPayload
  | .spiFlushTx => true

end Sys2Proof
end

