-- ==== Sys2Proof/Decode.lean ====
section
/-! DEFINITION. The decoder of command words and SPI command bytes (30_encoding.md R56 to R63, R68, R73), total on any
bytes, then the encoder, and the opcode table as data (R60). -/

namespace Sys2Proof

/-! ### Fields of a command word (R57, R58, R63) -/

/-- OP, bits [31:24]. -/
def fieldOp (w : Word) : Byte := w.extractLsb' 24 8
/-- A, bits [23:16]. -/
def fieldA (w : Word) : Byte := w.extractLsb' 16 8
/-- B, bits [15:8]. -/
def fieldB (w : Word) : Byte := w.extractLsb' 8 8
/-- C, bits [7:0]. -/
def fieldC (w : Word) : Byte := w.extractLsb' 0 8
/-- AX, bits [23:14] of format F. -/
def fieldAx (w : Word) : BitVec 10 := w.extractLsb' 14 10
/-- AY, bits [13:4] of format F. -/
def fieldAy (w : Word) : BitVec 10 := w.extractLsb' 4 10
/-- The reserved bits [3:2] of format F. -/
def fieldZ (w : Word) : BitVec 2 := w.extractLsb' 2 2
/-- TRG, bit 1 of format F. -/
def fieldTrg (w : Word) : Bool := w.getLsbD 1
/-- SW, bit 0 of format F. -/
def fieldSw (w : Word) : Bool := w.getLsbD 0

/-! ### Bytes of a word (20_memory.md R46: byte `i` at bits [8i+7:8i]) -/

/-- The four bytes of a word, byte 0 first. -/
def wordBytes (w : Word) : List Byte := [fieldC w, fieldB w, fieldA w, fieldOp w]

/-- The word whose byte `i` is `b<i>`. -/
def wordOfBytes (b0 b1 b2 b3 : Byte) : Word := (b3 ++ b2 ++ b1 ++ b0 : BitVec (8 + 8 + 8 + 8))

/-! ### The decoder -/

/-- The instruction, if its fields are legal (R61). -/
def whenLegal (op : Byte) (legal : Bool) (i : Instr) : Except DecodeError Instr :=
  if legal then .ok i else .error (.illegalField op)

/-- Opcodes 0x00 to 0x0F: the transport commands (R59, R60). -/
def decodeTransport (op a b c : Byte) : Except DecodeError Instr :=
  if op = 0x01 then whenLegal op (a = 0 && b = 0) (.xfer c)
  else if op = 0x02 then whenLegal op (isLevel a && b = 0 && c = 0) (.csn a)
  else if op = 0x03 then whenLegal op (isLevel a && b = 0 && c = 0) (.ce a)
  else .error (.unassignedOpcode op)

/-- Opcodes 0x10 to 0x1F: the register access commands (R59, R60). -/
def decodeRegister (op a b c : Byte) : Except DecodeError Instr :=
  if op = 0x10 then whenLegal op (isRegister a && c = 0) (.wreg a b)
  else if op = 0x11 then whenLegal op (isRegister a && b = 0 && c = 0) (.rreg a)
  else if op = 0x12 then whenLegal op (isRegister a && c = 0) (.rregb a b)
  else if op = 0x13 then whenLegal op (a = 0) (.wpay b c)
  else if op = 0x14 then whenLegal op (a = 0 && c = 0) (.rpay b)
  else if op = 0x15 then whenLegal op (a = 0 && b = 0 && c = 0) .flushtx
  else .error (.unassignedOpcode op)

/-- Opcodes 0x20 to 0x2F: the transceiver control commands (R59, R60). -/
def decodeControl (op a b c : Byte) : Except DecodeError Instr :=
  if op = 0x20 then whenLegal op (a = 0 && b = 0 && c = 0) .beginLink
  else if op = 0x21 then whenLegal op (a = 0 && b = 0) (.setch c)
  else if op = 0x22 then whenLegal op (a = 0 && b = 0) (.setps c)
  else if op = 0x23 then whenLegal op (a = 0 && b = 0 && c = 0) .openw
  else if op = 0x24 then whenLegal op (b = 0 && c = 0) (.openr a)
  else if op = 0x25 then whenLegal op (a = 0 && b = 0 && c = 0) .startl
  else if op = 0x26 then whenLegal op (a = 0 && b = 0 && c = 0) .stopl
  else .error (.unassignedOpcode op)

/-- Opcodes 0x30 to 0x3F: the framer and the ack sequencer (R59, R60). -/
def decodePacket (w : Word) (op a b c : Byte) : Except DecodeError Instr :=
  if op = 0x30 then
    whenLegal op (fieldZ w = 0) (.frame (fieldAx w) (fieldAy w) (fieldTrg w) (fieldSw w))
  else if op = 0x31 then whenLegal op (a = 0 && c = 0) (.send b)
  else if op = 0x32 then whenLegal op (a = 0 && b = 0 && c = 0) .avail
  else if op = 0x33 then whenLegal op (a = 0 && c = 0) (.read b)
  else .error (.unassignedOpcode op)

/-- Opcodes 0x40 to 0xFF: the link consumer, and the rest, unassigned (R59, R60, R62). -/
def decodeConsumer (w : Word) (op a b c : Byte) : Except DecodeError Instr :=
  if op = 0x40 then whenLegal op (isLevel a && b = 0 && c = 0) (.debounce a)
  else if op = 0x41 then whenLegal op (isLevel a && b = 0 && c = 0) (.rxcycle a)
  else if op = 0x42 then whenLegal op (a = 0 && b = 0 && c = 0) .motormap
  else if op = 0x43 then
    whenLegal op (fieldZ w = 0) (.txcycle (fieldAx w) (fieldAy w) (fieldTrg w) (fieldSw w))
  else .error (.unassignedOpcode op)

/-- The command a CMD word stands for (R59, R60, R73), family by family. -/
def decodeWord (w : Word) : Except DecodeError Instr :=
  let op := fieldOp w
  if op < 0x10 then decodeTransport op (fieldA w) (fieldB w) (fieldC w)
  else if op < 0x20 then decodeRegister op (fieldA w) (fieldB w) (fieldC w)
  else if op < 0x30 then decodeControl op (fieldA w) (fieldB w) (fieldC w)
  else if op < 0x40 then decodePacket w op (fieldA w) (fieldB w) (fieldC w)
  else decodeConsumer w op (fieldA w) (fieldB w) (fieldC w)

/-- The SPI command a byte stands for (R68). -/
def decodeSpi (b : Byte) : Except DecodeError Instr :=
  if b &&& 0xE0 = 0x00 then .ok (.spiRRegister (b &&& 0x1F))
  else if b &&& 0xE0 = 0x20 then .ok (.spiWRegister (b &&& 0x1F))
  else if b = 0x61 then .ok .spiRRxPayload
  else if b = 0xA0 then .ok .spiWTxPayload
  else if b = 0xE1 then .ok .spiFlushTx
  else .error (.notAnSpiCommand b)

/-- The decoder: one byte is an SPI command byte, four bytes are a command word. -/
def decode : List Byte → Except DecodeError Instr
  | [b] => decodeSpi b
  | [b0, b1, b2, b3] => decodeWord (wordOfBytes b0 b1 b2 b3)
  | bytes => .error (.badLength bytes.length)

/-! ### The encoder -/

/-- A word of format G (R57). -/
def wordG (op a b c : Byte) : Word := wordOfBytes c b a op

/-- A word of format F (R58). -/
def wordF (op : Byte) (ax ay : BitVec 10) (trg sw : Bool) : Word :=
  (op ++ ax ++ ay ++ 0#2 ++ BitVec.ofBool trg ++ BitVec.ofBool sw : BitVec (8 + 10 + 10 + 2 + 1 + 1))

/-- The bytes of an instruction, byte 0 first (R60's match with the operands in their fields, R71; R68). -/
def encode : Instr → List Byte
  | .xfer c => wordBytes (wordG 0x01 0 0 c)
  | .csn a => wordBytes (wordG 0x02 a 0 0)
  | .ce a => wordBytes (wordG 0x03 a 0 0)
  | .wreg a b => wordBytes (wordG 0x10 a b 0)
  | .rreg a => wordBytes (wordG 0x11 a 0 0)
  | .rregb a b => wordBytes (wordG 0x12 a b 0)
  | .wpay b c => wordBytes (wordG 0x13 0 b c)
  | .rpay b => wordBytes (wordG 0x14 0 b 0)
  | .flushtx => wordBytes (wordG 0x15 0 0 0)
  | .beginLink => wordBytes (wordG 0x20 0 0 0)
  | .setch c => wordBytes (wordG 0x21 0 0 c)
  | .setps c => wordBytes (wordG 0x22 0 0 c)
  | .openw => wordBytes (wordG 0x23 0 0 0)
  | .openr a => wordBytes (wordG 0x24 a 0 0)
  | .startl => wordBytes (wordG 0x25 0 0 0)
  | .stopl => wordBytes (wordG 0x26 0 0 0)
  | .frame ax ay trg sw => wordBytes (wordF 0x30 ax ay trg sw)
  | .send b => wordBytes (wordG 0x31 0 b 0)
  | .avail => wordBytes (wordG 0x32 0 0 0)
  | .read b => wordBytes (wordG 0x33 0 b 0)
  | .debounce a => wordBytes (wordG 0x40 a 0 0)
  | .rxcycle a => wordBytes (wordG 0x41 a 0 0)
  | .motormap => wordBytes (wordG 0x42 0 0 0)
  | .txcycle ax ay trg sw => wordBytes (wordF 0x43 ax ay trg sw)
  | .spiRRegister reg => [0x00 ||| reg]
  | .spiWRegister reg => [0x20 ||| reg]
  | .spiRRxPayload => [0x61]
  | .spiWTxPayload => [0xA0]
  | .spiFlushTx => [0xE1]

/-! ### The opcode table (R60, R68) -/

/-- A row of the opcode table: a word `w` selects it when `w &&& mask = pattern` (R60). -/
structure OpcodeRow where
  mnemonic : String
  pattern : Word
  mask : Word
deriving DecidableEq, Repr

/-- Whether a word selects a row (R60). -/
def OpcodeRow.selects (r : OpcodeRow) (w : Word) : Bool := w &&& r.mask = r.pattern

/-- The 24 rows of R60. -/
def commandTable : List OpcodeRow :=
  [⟨"XFER", 0x01000000, 0xFFFFFF00⟩, ⟨"CSN", 0x02000000, 0xFFFEFFFF⟩, ⟨"CE", 0x03000000, 0xFFFEFFFF⟩,
    ⟨"WREG", 0x10000000, 0xFFE000FF⟩, ⟨"RREG", 0x11000000, 0xFFE0FFFF⟩, ⟨"RREGB", 0x12000000, 0xFFE000FF⟩,
    ⟨"WPAY", 0x13000000, 0xFFFF0000⟩, ⟨"RPAY", 0x14000000, 0xFFFF00FF⟩, ⟨"FLUSHTX", 0x15000000, 0xFFFFFFFF⟩,
    ⟨"BEGIN", 0x20000000, 0xFFFFFFFF⟩, ⟨"SETCH", 0x21000000, 0xFFFFFF00⟩, ⟨"SETPS", 0x22000000, 0xFFFFFF00⟩,
    ⟨"OPENW", 0x23000000, 0xFFFFFFFF⟩, ⟨"OPENR", 0x24000000, 0xFF00FFFF⟩, ⟨"STARTL", 0x25000000, 0xFFFFFFFF⟩,
    ⟨"STOPL", 0x26000000, 0xFFFFFFFF⟩, ⟨"FRAME", 0x30000000, 0xFF00000C⟩, ⟨"SEND", 0x31000000, 0xFFFF00FF⟩,
    ⟨"AVAIL", 0x32000000, 0xFFFFFFFF⟩, ⟨"READ", 0x33000000, 0xFFFF00FF⟩, ⟨"DEBOUNCE", 0x40000000, 0xFFFEFFFF⟩,
    ⟨"RXCYCLE", 0x41000000, 0xFFFEFFFF⟩, ⟨"MOTORMAP", 0x42000000, 0xFFFFFFFF⟩, ⟨"TXCYCLE", 0x43000000, 0xFF00000C⟩]

/-- A row of the SPI command bytes: a byte `b` selects it when `b &&& mask = pattern` (R68). -/
structure SpiRow where
  mnemonic : String
  pattern : Byte
  mask : Byte
deriving DecidableEq, Repr

/-- Whether a byte selects a row (R68). -/
def SpiRow.selects (r : SpiRow) (b : Byte) : Bool := b &&& r.mask = r.pattern

/-- The 5 rows of R68. -/
def spiTable : List SpiRow :=
  [⟨"SPI_R_REGISTER", 0x00, 0xE0⟩, ⟨"SPI_W_REGISTER", 0x20, 0xE0⟩, ⟨"SPI_R_RX_PAYLOAD", 0x61, 0xFF⟩,
    ⟨"SPI_W_TX_PAYLOAD", 0xA0, 0xFF⟩, ⟨"SPI_FLUSH_TX", 0xE1, 0xFF⟩]

/-- What the decoder reads from the bits the opcode table numbers: one byte for an SPI row, one word for a command. -/
def decodeTableWord (nbits w : Nat) : Option Instr :=
  match decode (if nbits ≤ 8 then [BitVec.ofNat 8 w] else wordBytes (BitVec.ofNat 32 w)) with
  | .ok i => some i
  | .error _ => none

end Sys2Proof
end

