-- ==== Sys2Proof/Machine/State.lean ====
section
/-! DEFINITION. The machine's state as plain data: every field 10_state.md names (R13), and the model's own fields that
hold the outside world's part; the reasons a step can stop; the state after reset (70_reset_and_hazards.md R148). -/

namespace Sys2Proof.Machine

/-- BSTAT.MODE, the transceiver state machine (10_state.md R22). -/
inductive Mode where
  | poweredDown
  | standby
  | idle
  | listening
deriving DecidableEq, Repr

/-- `upc`: where the sequencer is (10_state.md R31). -/
inductive SeqPos where
  /-- No command is in progress. -/
  | idle
  /-- The index of the next step of the command's pseudocode. -/
  | step (k : Nat)
  /-- The next step is the exchange of this SPI command byte, on its own: the MODEL's way to run an SPI8 row of the
  opcode table by itself (log 13). No command brings the sequencer here. -/
  | spiByte (b : Byte)
deriving DecidableEq, Repr

/-- The host accesses of 10_state.md R15, by width, at a 6-bit offset (R14). -/
inductive HostAccess where
  | read8 (off : BitVec 6)
  | read16 (off : BitVec 6)
  | read32 (off : BitVec 6)
  | write8 (off : BitVec 6) (v : Byte)
  | write16 (off : BitVec 6) (v : BitVec 16)
  | write32 (off : BitVec 6) (v : Word)
deriving DecidableEq, Repr

/-- What the outside world can do to CP-LINK: a host access, or its reset input (R148). -/
inductive Action where
  | access (a : HostAccess)
  | reset
deriving DecidableEq, Repr

/-- A coming action of the outside world. `after` is the number of sequencer steps that a running command still takes
before the action is made; it has no meaning for an access that a running command holds, and none while no command
runs (log 15). -/
structure Input where
  after : Nat
  act : Action
deriving DecidableEq, Repr

/-- The bytes of DBUF that are valid, each with its index 0..31, indices strictly rising (10_state.md R17): `dvalid[i]`
is 1 exactly when `i` is listed, and a byte that is not listed holds no value (log 10). -/
abbrev Memory := List Host.Cell

/-- The state of CP-LINK (10_state.md R13), with the model's own fields last. -/
structure State where
  /-- CMD (R19). -/
  cmd : Word
  /-- RESP (R20). -/
  resp : Word
  /-- BSTAT.MODE (R22). -/
  mode : Mode
  /-- BSTAT.INIT (R23). -/
  init : Bool
  /-- BSTAT.BUSY (R24). -/
  busy : Bool
  /-- BSTAT.CSN, the level of the chip-select line, `true` = high = deasserted (R25). -/
  csn : Bool
  /-- BSTAT.CE, the level of the chip-enable line (R25). -/
  ce : Bool
  /-- BSTAT.PINS_DRIVEN (R25). -/
  pinsDriven : Bool
  /-- BSTAT.LAST_SEND_OK (R26). -/
  lastSendOk : Bool
  /-- BSTAT.SIGNAL_PRESENT (R27). -/
  signalPresent : Bool
  /-- BSTAT.ARMED (R27). -/
  armed : Bool
  /-- BSTAT.PREV_PRESSED (R27). -/
  prevPressed : Bool
  /-- BSTAT.F_ILLEGAL (R28). -/
  fIllegal : Bool
  /-- BSTAT.F_NOT_INIT (R28). -/
  fNotInit : Bool
  /-- BSTAT.F_UNDEF_DATA (R28). -/
  fUndefData : Bool
  /-- BSTAT.F_BUS_OPEN (R28). -/
  fBusOpen : Bool
  /-- BSTAT.LAST_STATUS (R29). -/
  lastStatus : Byte
  /-- BSTAT.PAYLOAD_SIZE (R30). -/
  payloadSize : BitVec 6
  /-- LASTPKT (R32). -/
  lastPkt : Word
  /-- MOTOR.PWM_L (R33). -/
  pwmL : Byte
  /-- MOTOR.PWM_R (R33). -/
  pwmR : Byte
  /-- MOTOR.DIR_FWD (R33). -/
  dirFwd : Bool
  /-- MOTOR.LINK_LED (R33, 46_link_consumer.md R130). -/
  linkLed : Bool
  /-- LINK.MISSED (R34). -/
  missed : Byte
  /-- DBUF with its validity bits (R17). -/
  dbuf : Memory
  /-- `cmdl`, the latched command word (R31); undefined between commands, where it keeps its value (log 28). -/
  cmdl : Word
  /-- `upc` (R31). -/
  upc : SeqPos
  /-- `t0`, SEND's clock sample (R31); between commands as `cmdl` (log 28). -/
  t0 : Word
  /-- `tmp`, the scratch byte a pseudocode line reads back (R31); that it is one byte is a DESIGN CHOICE (log 26), safe; between commands as `cmdl` (log 28). -/
  tmp : Byte
  /-- MODEL: every event and reset so far, newest first (R10, 30_encoding.md R74). -/
  history : List Event
  /-- MODEL: the MISO byte of each `xfer` of the history, newest first (R10). -/
  answers : List Byte
  /-- MODEL: the number the next free value is applied to; which of them count it on, says log 17. -/
  draws : Nat
  /-- MODEL: the least true time, in ms, that the clock laws allow the next clock read to show (60_exceptions.md
  R140; log 4). -/
  time : Nat
  /-- MODEL: what the outside world does next, in order (log 15). -/
  inputs : List Input
  /-- MODEL: what the host's reads returned, newest first (log 15). -/
  reads : List Word
deriving DecidableEq, Repr

/-- The reasons a step can end in a fault: none. The spec's four faults are ordinary next states (60_exceptions.md
R131, R133), and "there are no fatal/unrecoverable error states" (R143). Nobody raises one; safe (log 19). -/
inductive Fault where
deriving DecidableEq, Repr

/-- The reasons a step can be refused. -/
inductive Refusal where
  /-- Raised by `exec`'s arm of an instruction without a meaning; safe. Every instruction has one, so nobody raises it. -/
  | notModelled (mnemonic : String)
deriving DecidableEq, Repr

/-- The machine right after reset (70_reset_and_hazards.md R148). `cmdl`, `t0` and `tmp` are unspecified there: zero
is a DESIGN CHOICE (log 9), unsafe. -/
def State.reset : State where
  cmd := 0
  resp := 0
  mode := .poweredDown
  init := false
  busy := false
  csn := true
  ce := false
  pinsDriven := false
  lastSendOk := false
  signalPresent := false
  armed := false
  prevPressed := false
  fIllegal := false
  fNotInit := false
  fUndefData := false
  fBusOpen := false
  lastStatus := 0
  payloadSize := 32
  lastPkt := 0x01010000
  pwmL := 0
  pwmR := 0
  dirFwd := true
  linkLed := false
  missed := 0
  dbuf := []
  cmdl := 0
  upc := .idle
  t0 := 0
  tmp := 0
  history := []
  answers := []
  draws := 0
  time := 0
  inputs := []
  reads := []

end Sys2Proof.Machine
end

