-- ==== Sys2Proof/Machine/Flags.lean ====
section
/-! DEFINITION. The packed registers of the host port (10_state.md R21, R33, R34), the fault bits (60_exceptions.md
R132), and the device's status flags (30_encoding.md R66). -/

namespace Sys2Proof.Machine

/-- A bit as a word (0 or 1). -/
def bit (b : Bool) : Word := (BitVec.ofBool b).setWidth 32

/-- A byte as a word, `zext_32` (00_scope.md R9). -/
def zext (b : Byte) : Word := b.setWidth 32

/-- The two bits of BSTAT.MODE (R22). -/
def Mode.code : Mode → BitVec 2
  | .poweredDown => 0
  | .standby => 1
  | .idle => 2
  | .listening => 3

/-- BSTAT, bit for bit as R21 lays it out; bits 15 and 31:30 read 0. -/
def State.bstat (s : State) : Word :=
  s.mode.code.setWidth 32 ||| bit s.init <<< 2 ||| bit s.busy <<< 3 ||| bit s.csn <<< 4 ||| bit s.ce <<< 5 |||
    bit s.pinsDriven <<< 6 ||| bit s.lastSendOk <<< 7 ||| bit s.signalPresent <<< 8 ||| bit s.armed <<< 9 |||
    bit s.prevPressed <<< 10 ||| bit s.fIllegal <<< 11 ||| bit s.fNotInit <<< 12 ||| bit s.fUndefData <<< 13 |||
    bit s.fBusOpen <<< 14 ||| zext s.lastStatus <<< 16 ||| s.payloadSize.setWidth 32 <<< 24

/-- MOTOR, as R33 lays it out; bits 31:18 read 0. -/
def State.motor (s : State) : Word :=
  zext s.pwmL ||| zext s.pwmR <<< 8 ||| bit s.dirFwd <<< 16 ||| bit s.linkLed <<< 17

/-- LINK, as R34 lays it out; bits 31:8 read 0. -/
def State.link (s : State) : Word := zext s.missed

/-- The four faults (60_exceptions.md R132). -/
inductive FaultCode where
  | illegal
  | notInit
  | undefData
  | busOpen
deriving DecidableEq, Repr

/-- A fault's code (R132). -/
def FaultCode.code : FaultCode → Word
  | .illegal => 1
  | .notInit => 2
  | .undefData => 3
  | .busOpen => 4

/-- Sets a fault's sticky BSTAT bit (R132, 10_state.md R28). -/
def State.setFaultBit (s : State) : FaultCode → State
  | .illegal => { s with fIllegal := true }
  | .notInit => { s with fNotInit := true }
  | .undefData => { s with fUndefData := true }
  | .busOpen => { s with fBusOpen := true }

/-- "data sent" in a STATUS byte (R66). -/
def txDs (status : Byte) : Bool := status &&& Config.maskTxDs != 0
/-- "max retries exceeded" in a STATUS byte (R66). -/
def maxRt (status : Byte) : Bool := status &&& Config.maskMaxRt != 0
/-- "data ready" in a STATUS byte (R66). -/
def rxDr (status : Byte) : Bool := status &&& Config.maskRxDr != 0

end Sys2Proof.Machine
end

