-- ==== Sys2Proof/Machine/Memory.lean ====
section
/-! DEFINITION. Reading and writing DBUF (10_state.md R17, R18): 32 bytes in one canonical list. -/

namespace Sys2Proof.Machine

/-- The byte at index `i`, or none where `dvalid[i] = 0` (R17). -/
def Memory.read : Memory → Nat → Option Byte
  | [], _ => none
  | (k, b) :: m, i => if k = i then some b else Memory.read m i

/-- `dbuf[i] <- v; dvalid[i] <- 1` (R17, R18), in the list's place for `i`. -/
def Memory.write : Memory → Nat → Byte → Memory
  | [], i, v => [(i, v)]
  | (k, b) :: m, i, v =>
    if i < k then (i, v) :: (k, b) :: m else if i = k then (i, v) :: m else (k, b) :: Memory.write m i v

/-- Indices strictly rising from `lo` on, all below 32. -/
def Memory.wfFrom : Nat → Memory → Bool
  | _, [] => true
  | lo, (k, _) :: m => lo ≤ k && k < 32 && Memory.wfFrom (k + 1) m

/-- The canonical form of DBUF: indices strictly rising, all below 32 (R17). An unlisted index reads as no value, so no
entry can equal what an unlisted one reads as. -/
def Memory.wf (m : Memory) : Bool := Memory.wfFrom 0 m

/-- Writes some bytes from index `i` on, in order. -/
def Memory.writeAll : Memory → Nat → List Byte → Memory
  | m, _, [] => m
  | m, i, b :: bs => Memory.writeAll (m.write i b) (i + 1) bs

/-- Whether the bytes `dbuf[0..n-1]` are all valid (42_register_access.md R80, check 3). -/
def Memory.validTo (m : Memory) (n : Nat) : Bool := (List.range n).all fun i => (m.read i).isSome

end Sys2Proof.Machine
end

