-- ==== Sys2Proof/Machine/Operands.lean ====
section
/-! DEFINITION. The operand forms of the commands (30_encoding.md R60, R63), the control packet (44_packet_framer.md
R100 to R105) and the motor mapping (46_link_consumer.md R123): everything a command computes from its operands. -/

namespace Sys2Proof.Machine

/-! ### Operands (R60, R63) -/

/-- A[0] of a one-bit operand. -/
def level (a : Byte) : Bool := a.getLsbD 0

/-- A[4:0], a device register number. -/
def register (a : Byte) : Byte := a &&& 0x1F

/-- A length operand, clamped: `n = min(B, 32)` (R63, 42_register_access.md R80). -/
def lengthOf (b : Byte) : Nat := min b.toNat Config.payloadMax

/-- SETCH's channel, clamped to 125 (43_transceiver_control.md R91). -/
def channelOf (c : Byte) : Byte := BitVec.ofNat 8 (min c.toNat Config.channelMax)

/-- SETPS's size, clamped to 1..32 (43_transceiver_control.md R92). -/
def sizeOf (c : Nat) : Nat := min (max c Config.payloadMin) Config.payloadMax

/-- How many bytes of an `n`-byte payload a payload scope moves to or from DBUF (42_register_access.md R86, R87). -/
def State.dataLength (s : State) (n : Nat) : Nat :=
  if Config.dynamicPayloads then n else min n s.payloadSize.toNat

/-- How many more bytes fill the payload up (42_register_access.md R86, R87). -/
def State.blankLength (s : State) (n : Nat) : Nat :=
  if Config.dynamicPayloads then 0 else s.payloadSize.toNat - s.dataLength n

/-- `dbuf[i]`; where nothing has written it, what a host read of it returns (log 12). -/
def State.dbufByte (s : State) (i : Nat) : Byte := (s.dbuf.read i).getD (Config.unwrittenByte s.draws i)

/-- The bytes `dbuf[i..i+n-1]`. -/
def State.dbufBytes (s : State) (i n : Nat) : List Byte := (List.range n).map fun k => s.dbufByte (i + k)

/-! ### The control packet (44_packet_framer.md) -/

/-- The four fields of a packet, as the integers they mean (R100). -/
structure Packet where
  x : Int
  y : Int
  sw : Int
  trigger : Int
deriving DecidableEq, Repr

/-- `trunc_8` (00_scope.md R9). -/
def trunc8 (n : Int) : Byte := BitVec.ofInt 8 n

/-- `Encode` (R101), byte 0 first. -/
def Packet.encode (p : Packet) : List Byte := [trunc8 p.x, trunc8 p.y, trunc8 p.sw, trunc8 p.trigger]

/-- `Decode` of four bytes (R102). -/
def Packet.decode (b0 b1 b2 b3 : Byte) : Packet := ⟨b0.toInt, b1.toInt, b2.toInt, b3.toInt⟩

/-- A packet in a word, byte `i` at bits [8i+7:8i] (10_state.md R32, R106). -/
def Packet.toWord (p : Packet) : Word := wordOfBytes (trunc8 p.x) (trunc8 p.y) (trunc8 p.sw) (trunc8 p.trigger)

/-- The packet in such a word. -/
def Packet.ofWord (w : Word) : Packet := Packet.decode (fieldC w) (fieldB w) (fieldA w) (fieldOp w)

/-- `NEUTRAL_PACKET` (00_scope.md R6, 90_conflicts.md C3). -/
def Packet.neutral : Packet := ⟨0, 0, 1, 1⟩

/-- `dbuf[i]` as a byte of a packet; a free value where nothing has written it (46_link_consumer.md R125; log 11). -/
def State.packetByte (s : State) (i : Nat) : Byte := (s.dbuf.read i).getD (Config.packetByteDraw s.draws i)

/-- The packet in `dbuf[0..3]` (20_memory.md R45). -/
def State.dbufPacket (s : State) : Packet :=
  Packet.decode (s.packetByte 0) (s.packetByte 1) (s.packetByte 2) (s.packetByte 3)

/-- The deadzone `DZ` (R103): `abs` on the integer. -/
def deadzone (v : Int) : Int := if v.natAbs < Config.deadzone then 0 else v

/-- The button inversion `Inv` (R104): a low pin is a pressed button. -/
def invert (pin : Bool) : Int := if pin then 0 else 1

/-- The packet FRAME builds from its operands (R106). -/
def framePacket (ax ay : BitVec 10) (trg sw : Bool) : Packet :=
  ⟨deadzone (Config.axisMap ax), deadzone (Config.axisMap ay), invert sw, invert trg⟩

/-! ### The motor mapping (46_link_consumer.md R123) -/

/-- The duty both motors take from `y`. -/
def motorMagnitude (p : Packet) : Byte := BitVec.ofNat 8 (min Config.pwmMax (Config.motorScale * p.y.natAbs))

/-- PWM_L: cut when turning left. -/
def motorLeft (p : Packet) : Byte := if p.x < -Config.turnThreshold then 0 else motorMagnitude p

/-- PWM_R: cut when turning right. -/
def motorRight (p : Packet) : Byte := if Config.turnThreshold < p.x then 0 else motorMagnitude p

/-- DIR_FWD. -/
def motorForward (p : Packet) : Bool := decide (0 ≤ p.y)

end Sys2Proof.Machine
end

