-- ==== Sys2Proof/Machine/HostPort.lean ====
section
/-! DEFINITION. What the outside world does to CP-LINK: the host's accesses to the 64-byte port (10_state.md R14 to R20)
and the reset input (70_reset_and_hazards.md R148, R149). -/

namespace Sys2Proof.Machine

/-- The offset of the word register BSTAT (R14). -/
def offsetBstat : BitVec 6 := 0x08

/-- The read-only and read/write words below DBUF (R14); none at the two reserved offsets, and none at an offset that
is not 4-aligned (R15). -/
def State.readRegister (s : State) (off : BitVec 6) : Option Word :=
  if off = 0x00 then some s.cmd
  else if off = 0x04 then some s.resp
  else if off = 0x08 then some s.bstat
  else if off = 0x0C then some s.lastPkt
  else if off = 0x10 then some s.motor
  else if off = 0x14 then some s.link
  else none

/-- Whether an offset lies in DBUF (R14). -/
def inDbuf (off : BitVec 6) : Bool := 32 ≤ off.toNat

/-- Whether an offset is 4-aligned (R15). -/
def aligned (off : BitVec 6) : Bool := off.toNat % 4 = 0

/-- An illegal write changes nothing but F_ILLEGAL (R15). -/
def State.illegalWrite (s : State) : State := s.setFaultBit .illegal

/-- An illegal read sets F_ILLEGAL and returns a draw (R15). -/
def State.illegalRead (s : State) : State :=
  { s.setFaultBit .illegal with reads := Config.hostDraw s.draws :: s.reads, draws := s.draws + 1 }

/-- A read of DBUF bytes `i..i+n-1` returns `v`; if one of them is invalid it sets F_UNDEF_DATA, and that byte of `v` is
a draw (R18). -/
def State.readDbuf (s : State) (i n : Nat) (v : Word) : State :=
  if (List.range n).all fun k => (s.dbuf.read (i + k)).isSome then { s with reads := v :: s.reads }
  else { s.setFaultBit .undefData with reads := v :: s.reads, draws := s.draws + 1 }

/-- A host write of CMD (R19): latches the word, sets BUSY and puts the sequencer at the command's first step. -/
def State.latchCommand (s : State) (w : Word) : State :=
  { s with cmd := w, cmdl := w, busy := true, upc := .step 0 }

/-- A host access, with BUSY = 0 or a read of BSTAT (R15, R16, R18, R19). -/
def State.hostAccess (s : State) : HostAccess → State
  | .read8 off =>
    if inDbuf off then s.readDbuf (off.toNat - 32) 1 (zext (s.dbufByte (off.toNat - 32))) else s.illegalRead
  | .read16 _ => s.illegalRead
  | .read32 off =>
    if inDbuf off then
      let i := off.toNat - 32
      if aligned off then
        s.readDbuf i 4 (wordOfBytes (s.dbufByte i) (s.dbufByte (i + 1)) (s.dbufByte (i + 2)) (s.dbufByte (i + 3)))
      else s.illegalRead
    else
      match s.readRegister off with
      | some v => { s with reads := v :: s.reads }
      | none => s.illegalRead
  | .write8 off v =>
    if inDbuf off then { s with dbuf := s.dbuf.write (off.toNat - 32) v } else s.illegalWrite
  | .write16 _ _ => s.illegalWrite
  | .write32 off v =>
    if inDbuf off then
      if aligned off then { s with dbuf := s.dbuf.writeAll (off.toNat - 32) (wordBytes v) } else s.illegalWrite
    else if off = 0x00 then s.latchCommand v
    else s.illegalWrite

/-- The reset input (R148): every field of CP-LINK at its reset value. It reaches neither `DEV` nor `CLK` nor the host
(R149, R13), so what the model holds of them stays; the history marks the place (log 16). -/
def State.resetInput (s : State) : State :=
  { State.reset with
    history := .reset :: s.history
    answers := s.answers
    draws := s.draws
    time := s.time
    inputs := s.inputs
    reads := s.reads }

/-- An action of the outside world. -/
def State.perform (s : State) : Action → State
  | .access a => s.hostAccess a
  | .reset => s.resetInput

/-- The actions that a running command does not hold: a 32-bit read of BSTAT (R16) and the reset input (R148). -/
def Action.landsWhileBusy : Action → Bool
  | .reset => true
  | .access (.read32 off) => off = offsetBstat
  | .access (.read8 _) | .access (.read16 _) | .access (.write8 _ _) | .access (.write16 _ _)
  | .access (.write32 _ _) => false

/-- Whether an action is made now although a command runs. -/
def Input.due (i : Input) : Bool := i.act.landsWhileBusy && i.after = 0

end Sys2Proof.Machine
end

