-- ==== Sys2Proof/Machine/Ops.lean ====
section
/-! DEFINITION. The sequencer's primitives (00_scope.md R10) and the helpers of the composite commands
(42_register_access.md R83), the start and end of a command, its checks, and the fault action (60_exceptions.md R133).

Every primitive is one step of the sequencer (R7): it runs only while BUSY = 1, counts `upc` on, and at the boundary
after it the outside world may read BSTAT or reset the block. A reset leaves BUSY = 0, so that every later step of the
abandoned command does nothing (R148). -/

namespace Sys2Proof.Machine

/-! ### One step of the sequencer -/

/-- The next step's index (10_state.md R31). -/
def SeqPos.next : SeqPos → SeqPos
  | .idle => .idle
  | .step k => .step (k + 1)
  | .spiByte _ => .step 1

/-- Performs, in order, the actions that are due now; a reset ends the running command, and with it this. -/
def State.landDue : List Input → State → State
  | [], s => { s with inputs := [] }
  | i :: rest, s =>
    if i.due then
      match i.act with
      | .reset => { s with inputs := rest }.resetInput
      | .access a => State.landDue rest (s.hostAccess a)
    else { s with inputs := i :: rest }

/-- The boundary after a sequencer step: the first coming action that a running command does not hold is one step
nearer, and is made if it is due. -/
def State.boundary (s : State) : State :=
  match s.inputs with
  | [] => s
  | i :: rest => if i.act.landsWhileBusy then State.landDue ({ i with after := i.after - 1 } :: rest) s else s

/-- Whether no action of the outside world lands in a command that starts now: none is left, or the next one is an
access that a running command holds (R16). -/
def State.quiet (s : State) : Bool :=
  match s.inputs with
  | [] => true
  | i :: _ => !i.act.landsWhileBusy

/-- Assignments of a pseudocode line, made together with the step that follows them (log 2). -/
def State.assign (f : State → State) (s : State) : State := if s.busy then f s else s

/-- The step just made is counted (10_state.md R31). -/
def State.counted (s : State) : State := { s with upc := s.upc.next }

/-- One step of the sequencer with the effect `f`. -/
def State.tick (f : State → State) (s : State) : State := if s.busy then (f s).counted.boundary else s

/-! ### Primitives (R10) -/

/-- The MISO byte `DEV` answers now to `mosi`: an oracle draw (R11). -/
def State.miso (s : State) (mosi : Byte) : Byte := Config.misoDraw s.draws s.history mosi

/-- The event of an exchange, with its answer recorded (R10 `Transfer`). -/
def State.exchange (s : State) (mosi : Byte) : State :=
  { s with history := .xfer mosi :: s.history, answers := s.miso mosi :: s.answers, draws := s.draws + 1 }

/-- `Wait(t)`, in microseconds (R10); true time goes on by at least floor(t / 1000) ms (60_exceptions.md R140, law 4). -/
def State.wait (us : Nat) (s : State) : State :=
  s.tick fun s => { s with history := .wait us :: s.history, time := s.time + us / 1000 }

/-- `Select(a)`: the edge, then its settle wait (R10). -/
def State.select (active : Bool) (s : State) : State :=
  (s.tick fun s => { s with csn := !active, history := .csn (!active) :: s.history }).wait Config.tCsnUs

/-- `Enable(l)` (R10). -/
def State.enable (l : Bool) (s : State) : State :=
  s.tick fun s => { s with ce := l, history := .ce l :: s.history }

/-- A byte sent whose answer is dropped: a data byte on MOSI, a pad byte, a drained byte. -/
def State.putByte (b : Byte) (s : State) : State := s.tick fun s => s.exchange b

/-- `tmp <- Transfer(b)`. -/
def State.getTmp (b : Byte) (s : State) : State := s.tick fun s => { s.exchange b with tmp := s.miso b }

/-- `dbuf[i] <- Transfer(DUMMY_BYTE); dvalid[i] <- 1` (42_register_access.md R85). -/
def State.getDbuf (i : Nat) (s : State) : State :=
  s.tick fun s => { s.exchange Config.dummyByte with dbuf := s.dbuf.write i (s.miso Config.dummyByte) }

/-- The command byte of a scope: its MISO byte is the device status byte, kept in LAST_STATUS (42_register_access.md
R81). -/
def State.commandByte (b : Byte) (s : State) : State :=
  s.tick fun s => { s.exchange b with lastStatus := s.miso b }

/-- Sends some bytes in order. -/
def State.putBytes : List Byte → State → State
  | [], s => s
  | b :: bs, s => (s.putByte b).putBytes bs

/-- Receives `n` bytes into `dbuf[i..i+n-1]`, in order. -/
def State.getBytes : (n i : Nat) → State → State
  | 0, _, s => s
  | n + 1, i, s => (s.getDbuf i).getBytes n (i + 1)

/-- `Scope { … }` (R10): select, the body, deselect. -/
def State.scope (body : State → State) (s : State) : State := (body (s.select true)).select false

/-! ### Clock (60_exceptions.md R140) -/

/-- The true time a free read of the clock shows: any time not before the least the laws allow (law 1, law 4). -/
def State.freeTime (s : State) : Nat := s.time + Config.clockAdvance s.draws s.history

/-- A read of the clock that shows the true time `t`. -/
def State.clockRead (t : Nat) (s : State) : State :=
  { s with history := .now (BitVec.ofNat 32 t) :: s.history, time := t, draws := s.draws + 1 }

/-- `t0 <- Now()`. -/
def State.readT0 (s : State) : State :=
  s.tick fun s => { s.clockRead s.freeTime with t0 := BitVec.ofNat 32 s.freeTime }

/-- The true time of a read in SEND's poll loop, whose `t0` was read at true time `start`: not before the least time
allowed (laws 1 and 4), before `start` plus 2^32 (law 2), and in the `last` iteration that fairness grants not before the
deadline (law 3). Where the wait before it has left no time that obeys both law 2 and law 4, the laws admit no read at
all: the model reads the least time that law 4 allows and that ends the SEND. DESIGN CHOICE (log 5), safe. -/
def State.pollTime (s : State) (start : Nat) (last : Bool) : Nat :=
  if s.time < start + 2 ^ 32 then
    max s.time (min (if last then max s.freeTime (start + Config.sendTimeoutMs) else s.freeTime) (start + 2 ^ 32 - 1))
  else s.time + (Config.sendTimeoutMs - (s.time - start) % 2 ^ 32)

/-- `t <- Now()` in SEND's poll loop. -/
def State.readPollClock (start : Nat) (last : Bool) (s : State) : State :=
  s.tick fun s => s.clockRead (s.pollTime start last)

/-! ### Register helpers (42_register_access.md R83, 43_transceiver_control.md R99) -/

/-- `WriteReg(reg, bytes)`. -/
def State.writeReg (reg : Byte) (bytes : List Byte) (s : State) : State :=
  s.scope fun s => (s.commandByte (Config.cmdWriteRegister reg)).putBytes bytes

/-- `WriteReg1(reg, v)`. -/
def State.writeReg1 (reg v : Byte) (s : State) : State := s.writeReg reg [v]

/-- `tmp <- ReadReg1(reg)`. -/
def State.readReg1 (reg : Byte) (s : State) : State :=
  s.scope fun s => (s.commandByte (Config.cmdReadRegister reg)).getTmp Config.dummyByte

/-- `ClearFlags(m)`. -/
def State.clearFlags (m : Byte) (s : State) : State := s.writeReg1 Config.regStatus m

/-- `FlushTx()`. -/
def State.flushTx (s : State) : State := s.scope fun s => s.commandByte Config.cmdFlushTx

/-- `ConfigRMW(set, clear)` (R99): the value read stands in `tmp`. -/
def State.configRmw (set clear : Byte) (s : State) : State :=
  let s := s.readReg1 Config.regConfig
  s.writeReg1 Config.regConfig ((s.tmp ||| set) &&& ~~~clear)

/-- The payload write of R86 with command byte `c`: data, then padding. -/
def State.writePayload (c : Byte) (n : Nat) (s : State) : State :=
  s.scope fun s' => (s'.commandByte c).putBytes
    (s.dbufBytes 0 (s.dataLength n) ++ List.replicate (s.blankLength n) Config.padByte)

/-- The payload read of R87: data into DBUF, then the padding drained. -/
def State.readPayload (n : Nat) (s : State) : State :=
  s.scope fun s' => ((s'.commandByte Config.cmdReadRxPayload).getBytes (s.dataLength n) 0).putBytes
    (List.replicate (s.blankLength n) Config.dummyByte)

/-! ### Faults and checks (60_exceptions.md R133, R134) -/

/-- The fault action (R133), which takes the place of taking an exception: the sticky bit, RESP, BUSY. Nothing is
saved and there is no return from it: the next CMD write starts afresh (R141). The scratch `cmdl`, `t0` and `tmp` is
left as it is, as `State.finish` leaves it (log 28). -/
def State.commandFault (s : State) (c : FaultCode) : State :=
  { s.setFaultBit c with resp := 0x80000000 ||| c.code, busy := false, upc := .idle }

/-- Check 3 of 42_register_access.md R80: the consumed bytes `dbuf[0..n-1]` are valid. -/
def State.dataCheck (n : Nat) (s : State) : Option FaultCode :=
  if s.dbuf.validTo n then none else some .undefData

/-- The check of the transport commands (41_transport.md R75). -/
def State.transportCheck (s : State) : Option FaultCode := if s.init then none else some .notInit

/-- The checks of the composite bus commands, in order (42_register_access.md R80), of which `n` bytes are consumed. -/
def State.compositeCheck (n : Nat) (s : State) : Option FaultCode :=
  if !s.init then some .notInit else if !s.csn then some .busOpen else s.dataCheck n

/-! ### A command from start to end (10_state.md R24) -/

/-- The first step is next; BUSY is 1. -/
def State.start (s : State) : State := { s with busy := true, upc := .step 0 }

/-- `RESP <- v`, of the state it is reached in. -/
def State.respond (v : State → Word) (s : State) : State := s.assign fun s => { s with resp := v s }

/-- The last step's end: BUSY is 0 and the sequencer is idle (10_state.md R24, R31). `cmdl`, `t0` and `tmp` are undefined
from here to the next command (R31): that they keep their last values is a DESIGN CHOICE (log 28), unsafe. -/
def State.finish (s : State) : State := s.assign fun s => { s with busy := false, upc := .idle }

/-- A command: its checks before any event, then its body to the end (60_exceptions.md R134). -/
def State.command (check : Option FaultCode) (body : State → State) (s : State) :
    Host.Outcome State Fault Refusal :=
  match check with
  | some c => .next (s.commandFault c)
  | none => .next (body s.start).finish

/-! ### Shared bodies -/

/-- `MODE <- m`. -/
def State.setMode (m : Mode) (s : State) : State := s.assign fun s => { s with mode := m }

/-- `StopListening()` (43_transceiver_control.md R96). -/
def State.stopListening (s : State) : State :=
  (((s.enable false).configRmw 0x00 Config.configPrimRx).wait Config.tModeUs).setMode .idle

/-- `SetPayloadSize(c)` (43_transceiver_control.md R92): the shadow, then the six registers in order. -/
def State.setPayloadSize (c : Nat) (s : State) : State :=
  (List.range Config.pipeCount).foldl (fun s p => s.writeReg1 (Config.regRxPw p) (BitVec.ofNat 8 (sizeOf c)))
    (s.assign fun s => { s with payloadSize := BitVec.ofNat 6 (sizeOf c) })

/-- `dbuf[0..3] <- Encode(p)`, all four valid (44_packet_framer.md R106, 46_link_consumer.md R125). -/
def State.storePacket (p : Packet) (s : State) : State :=
  s.assign fun s => { s with dbuf := s.dbuf.writeAll 0 p.encode }

/-- The body of FRAME (44_packet_framer.md R106). -/
def State.frameBody (ax ay : BitVec 10) (trg sw : Bool) (s : State) : State :=
  (s.storePacket (framePacket ax ay trg sw)).respond fun _ => (framePacket ax ay trg sw).toWord

/-- `EdgeStep(p)` (46_link_consumer.md R119). -/
def State.edgeStep (p : Bool) (s : State) : State :=
  s.assign fun s => { s with armed := if p && !s.prevPressed then !s.armed else s.armed, prevPressed := p }

/-- `MotorOut(p)` (46_link_consumer.md R123). -/
def State.motorOut (p : Packet) (s : State) : State :=
  s.assign fun s => { s with pwmL := motorLeft p, pwmR := motorRight p, dirFwd := motorForward p }

/-- The state's part of `LosStep` (46_link_consumer.md R121), `got` being the packet this cycle read, if one. -/
def State.losStep (got : Option Packet) (s : State) : State :=
  s.assign fun s =>
    match got with
    | some p => { s with lastPkt := p.toWord, missed := 0, signalPresent := true }
    | none => { s with missed := BitVec.ofNat 8 (min (s.missed.toNat + 1) 255), signalPresent := false }

/-- The packet that drives the outputs (46_link_consumer.md R121), after the state's part of `LosStep`. -/
def State.effective (got : Option Packet) (s : State) : Packet :=
  match got with
  | some p => p
  | none => if s.missed.toNat ≤ Config.losHoldCycles then Packet.ofWord s.lastPkt else Packet.neutral

end Sys2Proof.Machine
end

