-- ==== Sys2Proof/Machine/Sequencer.lean ====
section
/-! DEFINITION. The ack/nack send sequencer and the receive poll (45_ack_sequencer.md): SEND, AVAIL, READ. -/

namespace Sys2Proof.Machine

/-- How a SEND ended (R116). -/
inductive SendOutcome where
  /-- TX_DS was seen (R113). -/
  | ack
  /-- MAX_RT was seen (R114). -/
  | nack
  /-- The deadline passed (R115). -/
  | timeout
deriving DecidableEq, Repr

/-- RESP[0], the outcome (R116). -/
def SendOutcome.ok : SendOutcome → Bool
  | .ack => true
  | .nack | .timeout => false

/-- RESP[9:8], the cause (R116). -/
def SendOutcome.cause : SendOutcome → Word
  | .ack => 0
  | .nack => 1
  | .timeout => 2

/-- RESP of a SEND (R109). -/
def SendOutcome.word (o : SendOutcome) : Word := bit o.ok ||| o.cause <<< 8

/-- The deadline test `(t - t0) mod 2^32 >= SEND_TIMEOUT_MS` (R115). -/
def deadlinePassed (t t0 : Word) : Bool := Config.sendTimeoutMs ≤ (t - t0).toNat

/-- One iteration of SEND's poll loop (R112 to R115), the loop's head at the step `head`, `t0` read at true time
`start`: how the SEND ends in it, if it does. In the `last` iteration that the fairness law leaves (60_exceptions.md
R140, law 3) the clock has reached the deadline, so that the test of R115 holds. -/
def State.poll (head : SeqPos) (start : Nat) (last : Bool) (s : State) : State × Option SendOutcome :=
  let s := (s.assign fun s => { s with upc := head }).readReg1 Config.regStatus
  let f := s.tmp &&& (Config.maskTxDs ||| Config.maskMaxRt)
  if txDs s.tmp then (s.clearFlags f, some .ack)
  else if maxRt s.tmp then (s.flushTx.clearFlags f, some .nack)
  else if last || deadlinePassed (BitVec.ofNat 32 (s.pollTime start last)) s.t0 then
    ((s.readPollClock start last).flushTx, some .timeout)
  else ((s.readPollClock start last).wait Config.pollWaitUs, none)

/-- SEND's poll loop (R112), with `patience` more iterations without a flag before the last one that fairness leaves;
that one always ends the SEND. -/
def State.pollLoop : (patience : Nat) → (head : SeqPos) → (start : Nat) → State → State × SendOutcome
  | 0, head, start, s => ((s.poll head start true).1, (s.poll head start true).2.getD .timeout)
  | patience + 1, head, start, s =>
    match s.poll head start false with
    | (s, some o) => (s, o)
    | (s, none) => s.pollLoop patience head start

/-- SEND up to its loop (R110, R111): stop listening, push the payload, pulse CE, sample the clock. -/
def State.sendPrologue (n : Nat) (s : State) : State :=
  let s := s.stopListening.writePayload Config.cmdWriteTxPayload n
  (((s.enable true).wait Config.tCePulseUs).enable false).readT0

/-- The body of SEND with an `n`-byte payload (R109). -/
def State.sendBody (n : Nat) (s : State) : State :=
  let s := s.sendPrologue n
  let r := s.pollLoop (Config.sendPatience s.draws s.history) s.upc s.time
  r.1.assign fun s => { s with lastSendOk := r.2.ok, linkLed := r.2.ok, resp := r.2.word }

/-- SEND (R109). -/
def execSend (b : Byte) (s : State) : Host.Outcome State Fault Refusal :=
  s.command (s.compositeCheck (s.dataLength (lengthOf b))) fun s => s.sendBody (lengthOf b)

/-- AVAIL (R117). -/
def execAvail (s : State) : Host.Outcome State Fault Refusal :=
  s.command (s.compositeCheck 0) fun s =>
    (s.readReg1 Config.regStatus).respond fun s => bit (rxDr s.tmp)

/-- READ (R118): RESP takes the status drawn on the payload's command byte, not the one on the clearing write's.
R118's `s`, which lives across ClearFlags, is a binding of this definition and no field of State: DESIGN CHOICE (log 26),
safe. -/
def execRead (b : Byte) (s : State) : Host.Outcome State Fault Refusal :=
  s.command (s.compositeCheck 0) fun s =>
    let s := s.readPayload (lengthOf b)
    (s.clearFlags Config.maskRxDr).respond fun _ => zext s.lastStatus

end Sys2Proof.Machine
end

