-- ==== Sys2Proof/Machine/Consumer.lean ====
section
/-! DEFINITION. The link consumer and the control cycles (46_link_consumer.md): DEBOUNCE, RXCYCLE, MOTORMAP, TXCYCLE. -/

namespace Sys2Proof.Machine

/-- DEBOUNCE (R120): no bus and no check. -/
def execDebounce (a : Byte) (s : State) : Host.Outcome State Fault Refusal :=
  s.command none fun s => (s.edgeStep (level a)).respond fun s => bit s.armed

/-- MOTORMAP (R124): the first two wire bytes are consumed, with no INIT check and no CSN check. -/
def execMotormap (s : State) : Host.Outcome State Fault Refusal :=
  s.command (s.dataCheck 2) fun s =>
    (s.motorOut ⟨(s.dbufByte 0).toInt, (s.dbufByte 1).toInt, 0, 0⟩).respond
      fun s => zext s.pwmL ||| zext s.pwmR <<< 8 ||| bit s.dirFwd <<< 16

/-- The receive part of RXCYCLE (R125): poll, and read a packet if there is one. A packet byte that
nothing has written (PAYLOAD_SIZE below 4) is a free value of its own: DESIGN CHOICE (log 11), safe. -/
def State.receive (s : State) : State × Option Packet :=
  let s := s.readReg1 Config.regStatus
  if rxDr s.tmp then
    let s := (s.readPayload Config.packetLen).clearFlags Config.maskRxDr
    (s, some s.dbufPacket)
  else (s, none)

/-- The output part of RXCYCLE (R125): the loss-of-signal step, the motors and DBUF. -/
def State.consume (got : Option Packet) (s : State) : State :=
  let s := s.losStep got
  (s.motorOut (s.effective got)).storePacket (s.effective got)

/-- RESP of RXCYCLE (R125). -/
def State.rxResponse (s : State) : Word :=
  bit s.signalPresent ||| bit s.armed <<< 1 ||| zext s.pwmL <<< 8 ||| zext s.pwmR <<< 16 ||| bit s.dirFwd <<< 24

/-- RXCYCLE (R125). -/
def execRxcycle (a : Byte) (s : State) : Host.Outcome State Fault Refusal :=
  s.command (s.compositeCheck 0) fun s =>
    let r := (s.edgeStep (level a)).receive
    ((r.1.consume r.2).wait (1000 * Config.rxCycleMs)).respond State.rxResponse

/-- TXCYCLE (R126): the checks come before FRAME writes DBUF; RESP is SEND's. -/
def execTxcycle (ax ay : BitVec 10) (trg sw : Bool) (s : State) : Host.Outcome State Fault Refusal :=
  s.command (s.compositeCheck 0) fun s =>
    ((s.frameBody ax ay trg sw).sendBody Config.packetLen).wait (1000 * Config.txCycleMs)

end Sys2Proof.Machine
end

