-- ==== Sys2Proof/Machine/Framer.lean ====
section
/-! DEFINITION. The packet framer (44_packet_framer.md): FRAME. -/

namespace Sys2Proof.Machine

/-- FRAME (R106): no bus and no check. -/
def execFrame (ax ay : BitVec 10) (trg sw : Bool) (s : State) : Host.Outcome State Fault Refusal :=
  s.command none fun s => s.frameBody ax ay trg sw

end Sys2Proof.Machine
end

