-- ==== Sys2Proof/Machine/RegisterAccess.lean ====
section
/-! DEFINITION. The register access commands (42_register_access.md): WREG, RREG, RREGB, WPAY, RPAY, FLUSHTX. -/

namespace Sys2Proof.Machine

/-- WREG (R82). -/
def execWreg (a b : Byte) (s : State) : Host.Outcome State Fault Refusal :=
  s.command (s.compositeCheck (lengthOf b)) fun s =>
    (s.writeReg (register a) (s.dbufBytes 0 (lengthOf b))).respond fun s => zext s.lastStatus

/-- RREG (R84). -/
def execRreg (a : Byte) (s : State) : Host.Outcome State Fault Refusal :=
  s.command (s.compositeCheck 0) fun s => (s.readReg1 (register a)).respond fun s => zext s.tmp

/-- RREGB (R85). -/
def execRregb (a b : Byte) (s : State) : Host.Outcome State Fault Refusal :=
  s.command (s.compositeCheck 0) fun s =>
    (s.scope fun s => (s.commandByte (Config.cmdReadRegister (register a))).getBytes (lengthOf b) 0).respond
      fun s => zext s.lastStatus

/-- WPAY (R86). -/
def execWpay (b c : Byte) (s : State) : Host.Outcome State Fault Refusal :=
  s.command (s.compositeCheck (s.dataLength (lengthOf b))) fun s =>
    (s.writePayload c (lengthOf b)).respond fun s => zext s.lastStatus

/-- RPAY (R87). -/
def execRpay (b : Byte) (s : State) : Host.Outcome State Fault Refusal :=
  s.command (s.compositeCheck 0) fun s =>
    (s.readPayload (lengthOf b)).respond fun s => zext s.lastStatus

/-- FLUSHTX (R88). -/
def execFlushtx (s : State) : Host.Outcome State Fault Refusal :=
  s.command (s.compositeCheck 0) fun s => s.flushTx.respond fun s => zext s.lastStatus

end Sys2Proof.Machine
end

