-- ==== Sys2Proof/Machine/Spi.lean ====
section
/-! DEFINITION. The SPI command bytes (30_encoding.md R68): the exchange that opens a scope, on its own. The status byte
comes back in it and is kept in LAST_STATUS (42_register_access.md R81); what the device does on it is the device's
(00_scope.md R11). Inside a command the same exchange is `State.commandByte` (log 13). -/

namespace Sys2Proof.Machine

/-- One SPI command byte, sent as the sequencer's whole work. -/
def State.sendCommandByte (b : Byte) (s : State) : State := (s.start.commandByte b).finish

/-- R_REGISTER (R68, 42_register_access.md R84). -/
def execSpiRRegister (reg : Byte) (s : State) : Host.Outcome State Fault Refusal :=
  .next (s.sendCommandByte (Config.cmdReadRegister (register reg)))

/-- W_REGISTER (R68, 42_register_access.md R82). -/
def execSpiWRegister (reg : Byte) (s : State) : Host.Outcome State Fault Refusal :=
  .next (s.sendCommandByte (Config.cmdWriteRegister (register reg)))

/-- R_RX_PAYLOAD (R68, 42_register_access.md R87). -/
def execSpiRRxPayload (s : State) : Host.Outcome State Fault Refusal :=
  .next (s.sendCommandByte Config.cmdReadRxPayload)

/-- W_TX_PAYLOAD (R68, 42_register_access.md R86). -/
def execSpiWTxPayload (s : State) : Host.Outcome State Fault Refusal :=
  .next (s.sendCommandByte Config.cmdWriteTxPayload)

/-- FLUSH_TX (R68, 42_register_access.md R88). -/
def execSpiFlushTx (s : State) : Host.Outcome State Fault Refusal :=
  .next (s.sendCommandByte Config.cmdFlushTx)

end Sys2Proof.Machine
end

