-- ==== Sys2Proof/Machine/Transceiver.lean ====
section
/-! DEFINITION. The transceiver control commands (43_transceiver_control.md): BEGIN, SETCH, SETPS, OPENW, OPENR, STARTL,
STOPL. -/

namespace Sys2Proof.Machine

/-- BEGIN up to the power-up wait (R90): drive the lines, CE low, chip-select high, power up. -/
def State.beginPowerUp (s : State) : State :=
  let s := s.assign fun s => { s with pinsDriven := true }
  (((s.enable false).select false).writeReg1 Config.regConfig Config.configPowerUp).wait Config.tPwrupUs

/-- BEGIN (R90): no INIT check and no CSN check. -/
def execBegin (s : State) : Host.Outcome State Fault Refusal :=
  s.command none fun s =>
    let s := s.beginPowerUp.setPayloadSize Config.payloadDefault
    let s := (s.writeReg1 Config.regEnAa 0x01).writeReg1 Config.regEnRxaddr 0x01
    s.assign fun s => { s with mode := .standby, init := true, resp := 0 }

/-- SETCH (R91). -/
def execSetch (c : Byte) (s : State) : Host.Outcome State Fault Refusal :=
  s.command (s.compositeCheck 0) fun s =>
    (s.writeReg1 Config.regRfCh (channelOf c)).respond fun _ => zext (channelOf c)

/-- SETPS (R92). -/
def execSetps (c : Byte) (s : State) : Host.Outcome State Fault Refusal :=
  s.command (s.compositeCheck 0) fun s =>
    (s.setPayloadSize c.toNat).respond fun s => s.payloadSize.setWidth 32

/-- OPENW (R93). -/
def execOpenw (s : State) : Host.Outcome State Fault Refusal :=
  s.command (s.compositeCheck Config.addrWidth) fun s =>
    ((s.writeReg Config.regTxAddr (s.dbufBytes 0 Config.addrWidth)).writeReg (Config.regRxAddr 0)
      (s.dbufBytes 0 Config.addrWidth)).respond fun _ => 0

/-- How many address bytes a pipe takes (R94, 30_encoding.md R70). -/
def pipeAddressLength (pipe : Nat) : Nat := if pipe ≤ 1 then Config.addrWidth else 1

/-- OPENR's body for a pipe 0..5 (R94). -/
def State.openPipe (pipe : Nat) (s : State) : State :=
  let s := s.writeReg (Config.regRxAddr pipe) (s.dbufBytes 0 (pipeAddressLength pipe))
  let s := s.readReg1 Config.regEnRxaddr
  s.writeReg1 Config.regEnRxaddr (s.tmp ||| 1 <<< pipe)

/-- OPENR (R94): a pipe number above 5 does nothing. -/
def execOpenr (a : Byte) (s : State) : Host.Outcome State Fault Refusal :=
  if Config.pipeCount ≤ a.toNat then
    s.command (s.compositeCheck 0) fun s => s.respond fun _ => 0
  else
    s.command (s.compositeCheck (pipeAddressLength a.toNat)) fun s => (s.openPipe a.toNat).respond fun _ => 1

/-- STARTL (R95). -/
def execStartl (s : State) : Host.Outcome State Fault Refusal :=
  s.command (s.compositeCheck 0) fun s =>
    ((((s.configRmw Config.configPrimRx 0x00).enable true).wait Config.tModeUs).setMode .listening).respond fun _ => 0

/-- STOPL (R96). -/
def execStopl (s : State) : Host.Outcome State Fault Refusal :=
  s.command (s.compositeCheck 0) fun s => s.stopListening.respond fun _ => 0

end Sys2Proof.Machine
end

