-- ==== Sys2Proof/Machine/Transport.lean ====
section
/-! DEFINITION. The transport commands (41_transport.md): XFER, CSN, CE. -/

namespace Sys2Proof.Machine

/-- XFER (R76). LAST_STATUS is not written. -/
def execXfer (c : Byte) (s : State) : Host.Outcome State Fault Refusal :=
  s.command s.transportCheck fun s => (s.getTmp c).respond fun s => zext s.tmp

/-- CSN (R77). -/
def execCsn (a : Byte) (s : State) : Host.Outcome State Fault Refusal :=
  s.command s.transportCheck fun s => (s.select (level a)).respond fun _ => 0

/-- CE (R78). MODE is not written. -/
def execCe (a : Byte) (s : State) : Host.Outcome State Fault Refusal :=
  s.command s.transportCheck fun s => (s.enable (level a)).respond fun _ => 0

end Sys2Proof.Machine
end

