-- ==== Sys2Proof/Machine/Dispatch.lean ====
section
/-! DEFINITION. The meaning of every instruction, one arm each. -/

namespace Sys2Proof.Machine

def exec (i : Instr) (s : State) : Host.Outcome State Fault Refusal :=
  match i with
  | .xfer c => Sys2Proof.Machine.execXfer c s
  | .csn a => Sys2Proof.Machine.execCsn a s
  | .ce a => Sys2Proof.Machine.execCe a s
  | .wreg a b => Sys2Proof.Machine.execWreg a b s
  | .rreg a => Sys2Proof.Machine.execRreg a s
  | .rregb a b => Sys2Proof.Machine.execRregb a b s
  | .wpay b c => Sys2Proof.Machine.execWpay b c s
  | .rpay b => Sys2Proof.Machine.execRpay b s
  | .flushtx => Sys2Proof.Machine.execFlushtx s
  | .beginLink => Sys2Proof.Machine.execBegin s
  | .setch c => Sys2Proof.Machine.execSetch c s
  | .setps c => Sys2Proof.Machine.execSetps c s
  | .openw => Sys2Proof.Machine.execOpenw s
  | .openr a => Sys2Proof.Machine.execOpenr a s
  | .startl => Sys2Proof.Machine.execStartl s
  | .stopl => Sys2Proof.Machine.execStopl s
  | .frame ax ay trg sw => Sys2Proof.Machine.execFrame ax ay trg sw s
  | .send b => Sys2Proof.Machine.execSend b s
  | .avail => Sys2Proof.Machine.execAvail s
  | .read b => Sys2Proof.Machine.execRead b s
  | .debounce a => Sys2Proof.Machine.execDebounce a s
  | .rxcycle a => Sys2Proof.Machine.execRxcycle a s
  | .motormap => Sys2Proof.Machine.execMotormap s
  | .txcycle ax ay trg sw => Sys2Proof.Machine.execTxcycle ax ay trg sw s
  | .spiRRegister reg => Sys2Proof.Machine.execSpiRRegister reg s
  | .spiWRegister reg => Sys2Proof.Machine.execSpiWRegister reg s
  | .spiRRxPayload => Sys2Proof.Machine.execSpiRRxPayload s
  | .spiWTxPayload => Sys2Proof.Machine.execSpiWTxPayload s
  | .spiFlushTx => Sys2Proof.Machine.execSpiFlushTx s

end Sys2Proof.Machine
end

