-- ==== Sys2Proof/Machine/Fetch.lean ====
section
/-! DEFINITION. Which instruction the sequencer runs next. CP-LINK has no program counter and fetches nothing from a
memory (20_memory.md R54): the word the host wrote to CMD is latched in `cmdl` (10_state.md R19, R31). -/

namespace Sys2Proof.Machine

/-- The bytes of what the sequencer runs: the latched command word, or the SPI command byte it stands at (log 13). -/
def State.fetchBytes (s : State) : List Byte :=
  match s.upc with
  | .spiByte b => [b]
  | .idle | .step _ => wordBytes s.cmdl

/-- The instruction the sequencer runs (30_encoding.md R73). -/
def State.fetch (s : State) : Except DecodeError Instr := decode s.fetchBytes

/-- What becomes of bytes that are no instruction: an undecodable command word is FAULT_ILLEGAL (60_exceptions.md R135);
a byte that is no SPI command of R68 is sent all the same (42_register_access.md R86: WPAY sends any byte). -/
def State.rejected (s : State) : State :=
  match s.upc with
  | .spiByte b => s.sendCommandByte b
  | .idle | .step _ => s.commandFault .illegal

/-- Puts an instruction's bits where the sequencer takes its next instruction from: one byte as an SPI command byte, a
word as a host write of CMD does (log 14). Actions due at this very moment are dropped, since they would come first. -/
def State.placeInstruction (s : State) (nbits w : Nat) : State :=
  let s := { s with inputs := s.inputs.dropWhile Input.due }
  if nbits ≤ 8 then { s with busy := true, upc := .spiByte (BitVec.ofNat 8 w) }
  else s.latchCommand (BitVec.ofNat 32 w)

end Sys2Proof.Machine
end

