-- ==== Sys2Proof/Machine/Step.lean ====
section
/-! DEFINITION. One step of the machine: an action of the outside world, or the sequencer running the latched command
(00_scope.md R7, R8; log 1). -/

namespace Sys2Proof.Machine

/-- The sequencer runs what it fetches. -/
def State.runSequencer (s : State) : Host.Outcome State Fault Refusal :=
  match s.fetch with
  | .ok i => exec i s
  | .error _ => .next s.rejected

/-- One step. While BUSY = 1 the outside world acts only if its next action is due and not held (10_state.md R16), and
else the sequencer runs the command; while BUSY = 0 the outside world's next action is made, and with none left the
block stays as it is, waiting for a CMD write (60_exceptions.md R146). -/
def step (s : State) : Host.Outcome State Fault Refusal :=
  match s.inputs with
  | [] => if s.busy then s.runSequencer else .next s
  | i :: rest => if s.busy && !i.due then s.runSequencer else .next ({ s with inputs := rest }.perform i.act)

/-- `s` with an instruction of `nbits` bits placed where the next step takes it from (log 14). -/
def State.withFetchWord (s : State) (nbits w : Nat) : State := s.placeInstruction nbits w

end Sys2Proof.Machine
end

