-- ==== Sys2Proof/Machine/Trace.lean ====
section
/-! DEFINITION. The bus trace (30_encoding.md R74, 70_reset_and_hazards.md R166), its notation, and the traces the spec
gives for the bodies of its commands, each oldest event first, with the numbers written out from the spec so that a
statement in these terms fixes the parameters and masks of the machine. Nothing of the machine reads them: the trace is
the model's observation (60_exceptions.md R147). -/

namespace Sys2Proof.Machine

/-- The events of a scope `[c d1 d2 …]` in order (R74): select and settle, the bytes on MOSI, deselect and settle. -/
def scopeEvents (bytes : List Byte) : List Event :=
  [.csn false, .wait 1] ++ bytes.map .xfer ++ [.csn true, .wait 1]

/-- The trace `[20|reg v]` of a one-byte register write (42_register_access.md R83). -/
def writeEvents (reg v : Byte) : List Event := scopeEvents [0x20 ||| reg, v]

/-- The trace `[00|reg FF]` of a one-byte register read (42_register_access.md R83). -/
def readEvents (reg : Byte) : List Event := scopeEvents [0x00 ||| reg, 0xFF]

/-- The trace `[E1]` of a flush (42_register_access.md R83). -/
def flushEvents : List Event := scopeEvents [0xE1]

/-- The read-modify-write of CONFIG as two scopes (43_transceiver_control.md R99): the value `v` drawn, with the named
bits changed, written back. -/
def rmwEvents (v set clear : Byte) : List Event :=
  readEvents 0x00 ++ writeEvents 0x00 ((v ||| set) &&& ~~~clear)

/-- `StopListening()` with the CONFIG value `v` drawn (43_transceiver_control.md R96). -/
def stopListeningEvents (v : Byte) : List Event :=
  [.ce false] ++ rmwEvents v 0x00 0x01 ++ [.wait 130]

/-- `SetPayloadSize` (43_transceiver_control.md R92): the six RX_PW registers, in order. -/
def payloadSizeEvents (size : Nat) : List Event :=
  (List.range 6).flatMap fun p => writeEvents (0x11 + BitVec.ofNat 8 p) (BitVec.ofNat 8 size)

/-- BEGIN up to the power-up wait (43_transceiver_control.md R90). -/
def powerUpEvents : List Event :=
  [.ce false, .csn true, .wait 1] ++ writeEvents 0x00 0x0A ++
    [.wait Config.tPwrupUs]

/-- The bytes a payload write sends after its command byte: data, then padding (42_register_access.md R86). -/
def State.payloadBytes (s : State) (n : Nat) : List Byte :=
  s.dbufBytes 0 (s.dataLength n) ++ List.replicate (s.blankLength n) Config.padByte

/-- SEND before its poll loop (45_ack_sequencer.md R110, R111), with `v` the CONFIG value drawn, `payload` the bytes
after the command byte, and `t0` the clock sample. -/
def sendPrologueEvents (v : Byte) (payload : List Byte) (t0 : Word) : List Event :=
  stopListeningEvents v ++ scopeEvents (0xA0 :: payload) ++
    [.ce true, .wait 10, .ce false, .now t0]

/-- One iteration of SEND's poll loop as it is observed: the status drawn on the command byte, the STATUS value drawn
as data, and the clock value read where no flag was seen. -/
structure Poll where
  status : Byte
  value : Byte
  clock : Word
deriving DecidableEq, Repr

/-- The events of an iteration that neither sees a flag nor finds the deadline passed (45_ack_sequencer.md R112). -/
def Poll.missEvents (p : Poll) : List Event :=
  readEvents 0x07 ++ [.now p.clock, .wait Config.pollWaitUs]

/-- Neither TX_DS (bit 5) nor MAX_RT (bit 4, 30_encoding.md R66), and before the deadline of a SEND that began at `t0`
(45_ack_sequencer.md R112, R115). -/
def Poll.missed (t0 : Word) (p : Poll) : Bool := !p.value.getLsbD 5 && !p.value.getLsbD 4 && decide ((p.clock - t0).toNat < 50)

/-- The MISO bytes of an iteration's status poll. -/
def Poll.answers (p : Poll) : List Byte := [p.status, p.value]

/-- The flags of a STATUS value that SEND clears (45_ack_sequencer.md R109: `s & (M_TX_DS | M_MAX_RT)`; 30_encoding.md R66). -/
def Poll.flags (p : Poll) : Byte := p.value &&& 0x30

/-- When the last iteration ends the SEND so (45_ack_sequencer.md R113, R114, R115; bits 5 and 4 of 30_encoding.md
R66). -/
def Poll.ends (t0 : Word) (p : Poll) : SendOutcome → Bool
  | .ack => p.value.getLsbD 5
  | .nack => !p.value.getLsbD 5 && p.value.getLsbD 4
  | .timeout => !p.value.getLsbD 5 && !p.value.getLsbD 4 && decide (50 ≤ (p.clock - t0).toNat)

/-- The events of the last iteration: clear; flush, then clear; read the clock, then flush (45_ack_sequencer.md R113,
R114, R115). -/
def Poll.endEvents (p : Poll) : SendOutcome → List Event
  | .ack => readEvents 0x07 ++ writeEvents 0x07 p.flags
  | .nack => readEvents 0x07 ++ flushEvents ++ writeEvents 0x07 p.flags
  | .timeout => readEvents 0x07 ++ [.now p.clock] ++ flushEvents

/-- How many bytes the end of a SEND exchanges after its last poll (45_ack_sequencer.md R113, R114, R115). -/
def SendOutcome.endLength : SendOutcome → Nat
  | .ack => 2
  | .nack => 3
  | .timeout => 1

/-- Which of those draws the last device status byte of the SEND (42_register_access.md R81). -/
def SendOutcome.statusIndex : SendOutcome → Nat
  | .ack | .timeout => 0
  | .nack => 1

/-- The events of a whole SEND (45_ack_sequencer.md R109): `v` is the CONFIG value drawn, `payload` the bytes pushed,
`t0` the clock sample, `misses` the polls without an end, `last` the poll that ended it. -/
def sendEvents (v : Byte) (payload : List Byte) (t0 : Word) (misses : List Poll) (last : Poll) (o : SendOutcome) :
    List Event :=
  sendPrologueEvents v payload t0 ++ misses.flatMap Poll.missEvents ++ last.endEvents o

/-- Every event since the last reset, oldest first (R74, R166). -/
def State.trace (s : State) : List Event := (s.history.takeWhile (· != .reset)).reverse

/-- A trace with the MISO byte of each exchange, `XFER(b)/r` (R74). -/
def pairAnswers : List Event → List Byte → List (Event × Option Byte)
  | [], _ => []
  | .xfer b :: es, r :: rs => (.xfer b, some r) :: pairAnswers es rs
  | e :: es, rs => (e, none) :: pairAnswers es rs

/-- The trace since the last reset, oldest first, with its answers. -/
def State.busTrace (s : State) : List (Event × Option Byte) :=
  (pairAnswers (s.history.takeWhile (· != .reset)) s.answers).reverse

end Sys2Proof.Machine
end

