-- ==== Sys2Proof/Safety.lean ====
section
/-! DEFINITION. What counts as a sound state of CP-LINK and as a safe output, and what the rules say of a command as a
whole (its checks, what it may write), in the terms the statements use. -/

namespace Sys2Proof

/-- The transport commands (41_transport.md R75). -/
def Instr.isTransport : Instr → Bool
  | .xfer _ | .csn _ | .ce _ => true
  | .wreg _ _ | .rreg _ | .rregb _ _ | .wpay _ _ | .rpay _ | .flushtx | .beginLink | .setch _ | .setps _ | .openw
  | .openr _ | .startl | .stopl | .frame _ _ _ _ | .send _ | .avail | .read _ | .debounce _ | .rxcycle _ | .motormap
  | .txcycle _ _ _ _ | .spiRRegister _ | .spiWRegister _ | .spiRRxPayload | .spiWTxPayload | .spiFlushTx => false

/-- The composite bus commands but BEGIN, which make the checks of 42_register_access.md R80 in full. -/
def Instr.isComposite : Instr → Bool
  | .wreg _ _ | .rreg _ | .rregb _ _ | .wpay _ _ | .rpay _ | .flushtx | .setch _ | .setps _ | .openw | .openr _
  | .startl | .stopl | .send _ | .avail | .read _ | .rxcycle _ | .txcycle _ _ _ _ => true
  | .xfer _ | .csn _ | .ce _ | .beginLink | .frame _ _ _ _ | .debounce _ | .motormap | .spiRRegister _
  | .spiWRegister _ | .spiRRxPayload | .spiWTxPayload | .spiFlushTx => false

/-- The raw commands that never update a shadow of device state (10_state.md R37). -/
def Instr.isRaw : Instr → Bool
  | .wreg _ _ | .wpay _ _ | .rpay _ | .flushtx | .xfer _ | .csn _ | .ce _ => true
  | .rreg _ | .rregb _ _ | .beginLink | .setch _ | .setps _ | .openw | .openr _ | .startl | .stopl | .frame _ _ _ _
  | .send _ | .avail | .read _ | .debounce _ | .rxcycle _ | .motormap | .txcycle _ _ _ _ | .spiRRegister _
  | .spiWRegister _ | .spiRRxPayload | .spiWTxPayload | .spiFlushTx => false

/-- The command that BEGIN is (43_transceiver_control.md R90). -/
def Instr.isBegin (i : Instr) : Bool := i == .beginLink

/-- RXCYCLE, the one command that writes LASTPKT, MISSED and SIGNAL_PRESENT (10_state.md R32, 46_link_consumer.md
R122). -/
def Instr.isRxcycle (i : Instr) : Bool := i.mnemonic == "RXCYCLE"

namespace Machine

/-- The invariant of the block's registers: DBUF is canonical (R17); PAYLOAD_SIZE is in 1..32 (R30); INIT is 0 exactly
when MODE is PoweredDown (R89); lines that are not driven stay at their reset levels and leave the block
uninitialised (R25, R90); LINK_LED follows LAST_SEND_OK (R130); a signal means that no cycle was missed (R122); the
sequencer is idle exactly when no command runs (R24, R31). -/
def State.sound (s : State) : Bool :=
  s.dbuf.wf && (1 ≤ s.payloadSize.toNat && s.payloadSize.toNat ≤ 32) && (s.init == (s.mode != .poweredDown)) &&
    (s.pinsDriven || (s.csn && !s.ce && !s.init)) && (s.linkLed == s.lastSendOk) &&
    (!s.signalPresent || s.missed == 0) && (s.busy == (s.upc != .idle))

/-- The motors are off (46_link_consumer.md R128, 10_state.md R33). -/
def State.motorsOff (s : State) : Bool := s.pwmL == 0 && s.pwmR == 0

/-- A sticky fault bit (10_state.md R28). -/
def State.faultBit (s : State) : FaultCode → Bool
  | .illegal => s.fIllegal
  | .notInit => s.fNotInit
  | .undefData => s.fUndefData
  | .busOpen => s.fBusOpen

/-- No reset is among the coming actions (R28: only reset clears the fault bits). -/
def State.noReset (s : State) : Bool := s.inputs.all fun i => i.act != .reset

/-- The sequencer is the one that acts next: a command runs, and the outside world's next action, if there is one, is
held or comes later (00_scope.md R7, 10_state.md R16). -/
def State.sequencerTurn (s : State) : Bool :=
  s.busy && match s.inputs with
    | [] => true
    | i :: _ => !i.due

/-- How many resets the history holds. -/
def State.resets (s : State) : Nat := s.history.count .reset

/-! ### A command's checks and writes, as its rule gives them -/

/-- How many DBUF bytes, from byte 0 on, a command consumes (42_register_access.md R80, check 3; 46_link_consumer.md
R124). -/
def State.consumed (s : State) : Instr → Nat
  | .wreg _ b => min b.toNat 32
  | .wpay b _ | .send b => min (min b.toNat 32) s.payloadSize.toNat
  | .openw => 5
  | .openr a => if 5 < a.toNat then 0 else if a.toNat ≤ 1 then 5 else 1
  | .motormap => 2
  | .xfer _ | .csn _ | .ce _ | .rreg _ | .rregb _ _ | .rpay _ | .flushtx | .beginLink | .setch _ | .setps _ | .startl
  | .stopl | .frame _ _ _ _ | .avail | .read _ | .debounce _ | .rxcycle _ | .txcycle _ _ _ _ | .spiRRegister _
  | .spiWRegister _ | .spiRRxPayload | .spiWTxPayload | .spiFlushTx => 0

/-- The first check that fails, in the order of 60_exceptions.md R134 after decoding. -/
def State.firstFault (s : State) (i : Instr) : Option FaultCode :=
  if (i.isTransport || i.isComposite) && !s.init then some .notInit
  else if i.isComposite && !s.csn then some .busOpen
  else if !s.dbuf.validTo (s.consumed i) then some .undefData
  else none

/-- How many DBUF bytes, from byte 0 on, a command may write when it passes its checks (42_register_access.md R85, R87;
44_packet_framer.md R106; 45_ack_sequencer.md R118; 46_link_consumer.md R125, R126). -/
def State.mayWrite (s : State) : Instr → Nat
  | .rregb _ b => min b.toNat 32
  | .rpay b | .read b => min (min b.toNat 32) s.payloadSize.toNat
  | .frame _ _ _ _ | .rxcycle _ | .txcycle _ _ _ _ => 4
  | .xfer _ | .csn _ | .ce _ | .wreg _ _ | .rreg _ | .wpay _ _ | .flushtx | .beginLink | .setch _ | .setps _ | .openw
  | .openr _ | .startl | .stopl | .send _ | .avail | .debounce _ | .motormap | .spiRRegister _ | .spiWRegister _
  | .spiRRxPayload | .spiWTxPayload | .spiFlushTx => 0

/-- MODE after a command that passed its checks (43_transceiver_control.md R89). -/
def modeAfter (m : Mode) : Instr → Mode
  | .beginLink => .standby
  | .startl => .listening
  | .stopl | .send _ | .txcycle _ _ _ _ => .idle
  | .xfer _ | .csn _ | .ce _ | .wreg _ _ | .rreg _ | .rregb _ _ | .wpay _ _ | .rpay _ | .flushtx | .setch _ | .setps _
  | .openw | .openr _ | .frame _ _ _ _ | .avail | .read _ | .debounce _ | .rxcycle _ | .motormap | .spiRRegister _
  | .spiWRegister _ | .spiRRxPayload | .spiWTxPayload | .spiFlushTx => m

/-! ### Several commands in a row, and the samples of the edge detector -/

/-- The meanings of some instructions, one after the other. -/
def runAll : List Instr → State → Option State
  | [], s => some s
  | i :: is, s =>
    match exec i s with
    | .next t => runAll is t
    | .fault _ | .refused _ => none

/-- How many of the samples are rising edges, `prev` being the sample before them (46_link_consumer.md R119). -/
def risingEdges : (prev : Bool) → List Bool → Nat
  | _, [] => 0
  | prev, p :: ps => (if p && !prev then 1 else 0) + risingEdges p ps

/-- The DEBOUNCE command of a sample (46_link_consumer.md R120). -/
def debounceOf (p : Bool) : Instr := .debounce (if p then 1 else 0)

end Machine

end Sys2Proof
end

