-- ==== Sys2Proof/Certificates/Slice0/Obligations.lean ====
section
/-! DEFINITION. The statements for the provers, from the numbered rules of spec/. -/

open Sys2Proof Sys2Proof.Machine

/-! ### Encoding -/

/-- Words written out from the encoding tables decode to the instructions they stand for (30_encoding.md R60, R68, R71;
the words of 95_test_vectors.md). -/
def Obligations.SampleWordsDecode : Prop :=
  decode (wordBytes 0x01000007) = .ok (.xfer 0x07) ∧ decode (wordBytes 0x02010000) = .ok (.csn 1) ∧
    decode (wordBytes 0x10050100) = .ok (.wreg 0x05 1) ∧ decode (wordBytes 0x130004A0) = .ok (.wpay 4 0xA0) ∧
    decode (wordBytes 0x20000000) = .ok .beginLink ∧ decode (wordBytes 0x2100004C) = .ok (.setch 76) ∧
    decode (wordBytes 0x30AF12C1) = .ok (.frame 700 300 false true) ∧
    decode (wordBytes 0x31000400) = .ok (.send 4) ∧ decode (wordBytes 0x41010000) = .ok (.rxcycle 1) ∧
    decode (wordBytes 0x43803FF1) = .ok (.txcycle 512 1023 false true) ∧ decode [0x61] = .ok .spiRRxPayload ∧
    decode [0x27] = .ok (.spiWRegister 0x07)

/-- Decoding an encoded well-formed instruction gives it back: all 29 rows, every operand at every value the encoding
admits (30_encoding.md R60, R68, R71). -/
def Obligations.DecodeOfEncode : Prop :=
  ∀ i : Instr, i.wellFormed = true → decode (encode i) = .ok i

/-- What the decoder accepts is well formed and is the encoding of what it reads: no bit of it is dropped
(30_encoding.md R57, R58, R61, R63). -/
def Obligations.EncodeOfDecode : Prop :=
  ∀ (bytes : List Byte) (i : Instr), decode bytes = .ok i → encode i = bytes ∧ i.wellFormed = true

/-- A word that a row of R60's table selects decodes to an instruction of that row, and no two rows select one word
(30_encoding.md R60, R73). -/
def Obligations.RowSelectsInstruction : Prop :=
  ∀ w : Word,
    (∀ r ∈ commandTable, r.selects w = true →
      ∃ i, decode (wordBytes w) = .ok i ∧ i.mnemonic = r.mnemonic ∧ encode i = wordBytes w) ∧
    ∀ r₁ ∈ commandTable, ∀ r₂ ∈ commandTable, r₁.selects w = true → r₂.selects w = true → r₁ = r₂

/-- R61: a word that no row selects is illegal, whatever the state: its command ends at once with FAULT_ILLEGAL and no
event. So are a word whose OP is no row's, a word of a row's OP with a bit set where the row's mask holds one (a field
that must be zero, the upper bits of a one-bit field), and the all-zero word. That the hidden scratch keeps its values
is the model's choice (log 28). -/
def Obligations.IllegalWordFaults : Prop :=
  (∀ (s : State) (k : Nat), s.sequencerTurn = true → s.upc = .step k →
    (∀ r ∈ commandTable, r.selects s.cmdl = false) →
    step s = .next { s with fIllegal := true, resp := 0x80000001, busy := false, upc := .idle }) ∧
  (∀ w : Word, (∀ r ∈ commandTable, r.selects w = false) ↔
    ((∀ r ∈ commandTable, fieldOp r.pattern ≠ fieldOp w) ∨
      ∃ r ∈ commandTable, fieldOp r.pattern = fieldOp w ∧ w &&& (r.mask &&& 0x00FFFFFF) ≠ 0)) ∧
  (∀ r ∈ commandTable, r.selects 0 = false) ∧
  ∀ w : Word, (∀ r ∈ commandTable, r.selects w = false) ↔ ∃ e, decode (wordBytes w) = .error e

/-! ### A step -/

/-- When the sequencer acts next and its bytes decode to an instruction, the step is that instruction's meaning. While
no command runs, the step makes the outside world's next action, whichever it is and whatever its count, a host access
or a reset, and takes it off the list; with none left the block waits as it is (00_scope.md R7, R8, 30_encoding.md R73,
60_exceptions.md R146; that the outside world's actions stand in a list is the model's, log 15; the grain is log 1's,
the empty step log 20's). -/
def Obligations.StepRunsDecodedInstruction : Prop :=
  (∀ (s : State) (i : Instr), s.sequencerTurn = true → decode s.fetchBytes = .ok i → step s = exec i s) ∧
  (∀ (s : State) (n : Nat) (act : Action) (rest : List Input), s.busy = false → s.inputs = ⟨n, act⟩ :: rest →
    step s = .next ({ s with inputs := rest }.perform act)) ∧
  (∀ (s : State) (a : HostAccess), s.perform (.access a) = s.hostAccess a) ∧
  (∀ s : State, s.perform .reset = s.resetInput) ∧
  ∀ s : State, s.busy = false → s.inputs = [] → step s = .next s

/-- A well-formed command word put where the sequencer takes its next command from runs, as after a host write of CMD;
an SPI command byte runs as a lone exchange (10_state.md R19; log 13, log 14: the model's way to place one). -/
def Obligations.PlacedInstructionRuns : Prop :=
  ∀ (s : State) (i : Instr), i.wellFormed = true →
    (∀ w : Word, encode i = wordBytes w →
      step (s.withFetchWord 32 w.toNat) =
        exec i { s with inputs := s.inputs.dropWhile Input.due, cmd := w, cmdl := w, busy := true, upc := .step 0 }) ∧
    ∀ b : Byte, encode i = [b] →
      step (s.withFetchWord 8 b.toNat) =
        exec i { s with inputs := s.inputs.dropWhile Input.due, busy := true, upc := .spiByte b }

/-! ### The host port -/

/-- R15: every illegal access changes nothing but F_ILLEGAL (an illegal read returns some value), and a legal one of
DBUF moves the bytes `dbuf[k..k+3]`, `dbuf[k]` in bits [7:0], and sets no F_ILLEGAL. What a read returned is recorded
in the model's fields `reads` and `draws`. -/
def Obligations.HostAccessLegality : Prop :=
  ∀ s : State,
    (∀ off v, off.toNat < 32 → s.hostAccess (.write8 off v) = { s with fIllegal := true }) ∧
    (∀ off, off.toNat < 32 → ∃ r, s.hostAccess (.read8 off) =
      { s with fIllegal := true, reads := r :: s.reads, draws := s.draws + 1 }) ∧
    (∀ off v, s.hostAccess (.write16 off v) = { s with fIllegal := true }) ∧
    (∀ off, ∃ r, s.hostAccess (.read16 off) =
      { s with fIllegal := true, reads := r :: s.reads, draws := s.draws + 1 }) ∧
    (∀ off v, off.toNat % 4 ≠ 0 ∨ off.toNat < 32 ∧ off.toNat ≠ 0 →
      s.hostAccess (.write32 off v) = { s with fIllegal := true }) ∧
    (∀ off, off.toNat % 4 ≠ 0 ∨ off.toNat = 0x18 ∨ off.toNat = 0x1C → ∃ r, s.hostAccess (.read32 off) =
      { s with fIllegal := true, reads := r :: s.reads, draws := s.draws + 1 }) ∧
    (∀ off v, 32 ≤ off.toNat → off.toNat % 4 = 0 → s.hostAccess (.write32 off v) =
      { s with dbuf := s.dbuf.writeAll (off.toNat - 32)
                 [v.extractLsb' 0 8, v.extractLsb' 8 8, v.extractLsb' 16 8, v.extractLsb' 24 8] }) ∧
    (∀ off (v : Word), 32 ≤ off.toNat → off.toNat % 4 = 0 →
      (∀ k, k < 4 → s.dbuf.read (off.toNat - 32 + k) = some (v.extractLsb' (8 * k) 8)) →
      s.hostAccess (.read32 off) = { s with reads := v :: s.reads }) ∧
    (∀ off v, 32 ≤ off.toNat → (s.hostAccess (.write8 off v)).fIllegal = s.fIllegal) ∧
    (∀ off, 32 ≤ off.toNat → (s.hostAccess (.read8 off)).fIllegal = s.fIllegal) ∧
    (∀ off, off.toNat ≤ 0x14 ∨ 32 ≤ off.toNat → off.toNat % 4 = 0 →
      (s.hostAccess (.read32 off)).fIllegal = s.fIllegal) ∧
    ∀ v, (s.hostAccess (.write32 0x00 v)).fIllegal = s.fIllegal

/-- The six word registers read at their offsets, with no side effect (10_state.md R14, R19, R20, R21, R32, R33, R34;
20_memory.md R42, R51). -/
def Obligations.HostRegisterReads : Prop :=
  ∀ s : State,
    s.hostAccess (.read32 0x00) = { s with reads := s.cmd :: s.reads } ∧
    s.hostAccess (.read32 0x04) = { s with reads := s.resp :: s.reads } ∧
    s.hostAccess (.read32 0x08) = { s with reads := s.bstat :: s.reads } ∧
    s.hostAccess (.read32 0x0C) = { s with reads := s.lastPkt :: s.reads } ∧
    s.hostAccess (.read32 0x10) = { s with reads := s.motor :: s.reads } ∧
    s.hostAccess (.read32 0x14) = { s with reads := s.link :: s.reads }

/-- Every bit of BSTAT, MOTOR and LINK as the tables lay them out, the four codes of MODE, the reserved bits 0
(10_state.md R21, R22, R33, R34; 93_implementation_defined.md I23). -/
def Obligations.StatusWordLayout : Prop :=
  ∀ s : State,
    s.bstat.extractLsb' 0 2 = s.mode.code ∧
    (s.bstat.extractLsb' 0 2 = match s.mode with
      | .poweredDown => (0 : BitVec 2) | .standby => 1 | .idle => 2 | .listening => 3) ∧
    s.bstat.getLsbD 2 = s.init ∧ s.bstat.getLsbD 3 = s.busy ∧
    s.bstat.getLsbD 4 = s.csn ∧ s.bstat.getLsbD 5 = s.ce ∧ s.bstat.getLsbD 6 = s.pinsDriven ∧
    s.bstat.getLsbD 7 = s.lastSendOk ∧ s.bstat.getLsbD 8 = s.signalPresent ∧ s.bstat.getLsbD 9 = s.armed ∧
    s.bstat.getLsbD 10 = s.prevPressed ∧ s.bstat.getLsbD 11 = s.fIllegal ∧ s.bstat.getLsbD 12 = s.fNotInit ∧
    s.bstat.getLsbD 13 = s.fUndefData ∧ s.bstat.getLsbD 14 = s.fBusOpen ∧ s.bstat.getLsbD 15 = false ∧
    s.bstat.extractLsb' 16 8 = s.lastStatus ∧ s.bstat.extractLsb' 24 6 = s.payloadSize ∧
    s.bstat.extractLsb' 30 2 = 0 ∧
    s.motor.extractLsb' 0 8 = s.pwmL ∧ s.motor.extractLsb' 8 8 = s.pwmR ∧ s.motor.getLsbD 16 = s.dirFwd ∧
    s.motor.getLsbD 17 = s.linkLed ∧ s.motor.extractLsb' 18 14 = 0 ∧
    s.link.extractLsb' 0 8 = s.missed ∧ s.link.extractLsb' 8 24 = 0

/-- R18: a host write of a DBUF byte sets it and makes it valid, and no other byte changes; a host read of a valid byte
returns it; a read that covers an invalid byte sets F_UNDEF_DATA and returns some value for that byte. -/
def Obligations.HostDbufBytes : Prop :=
  ∀ s : State,
    (∀ off v, 32 ≤ off.toNat →
      (∀ i, (s.hostAccess (.write8 off v)).dbuf.read i = if i = off.toNat - 32 then some v else s.dbuf.read i) ∧
      s.hostAccess (.write8 off v) = { s with dbuf := (s.hostAccess (.write8 off v)).dbuf }) ∧
    (∀ off v, 32 ≤ off.toNat → off.toNat % 4 = 0 →
      (∀ i, (s.hostAccess (.write32 off v)).dbuf.read i =
        if off.toNat - 32 ≤ i ∧ i < off.toNat - 32 + 4 then some (v.extractLsb' (8 * (i - (off.toNat - 32))) 8)
        else s.dbuf.read i) ∧
      s.hostAccess (.write32 off v) = { s with dbuf := (s.hostAccess (.write32 off v)).dbuf }) ∧
    (∀ off b, 32 ≤ off.toNat → s.dbuf.read (off.toNat - 32) = some b →
      ∃ r : Word, r.extractLsb' 0 8 = b ∧ s.hostAccess (.read8 off) = { s with reads := r :: s.reads }) ∧
    (∀ off, 32 ≤ off.toNat → s.dbuf.read (off.toNat - 32) = none → ∃ r, s.hostAccess (.read8 off) =
      { s with fUndefData := true, reads := r :: s.reads, draws := s.draws + 1 }) ∧
    ∀ off, 32 ≤ off.toNat → off.toNat % 4 = 0 →
      ∃ r : Word, (∀ k b, k < 4 → s.dbuf.read (off.toNat - 32 + k) = some b → r.extractLsb' (8 * k) 8 = b) ∧
        ((∀ k, k < 4 → s.dbuf.read (off.toNat - 32 + k) ≠ none) →
          s.hostAccess (.read32 off) = { s with reads := r :: s.reads }) ∧
        ((∃ k, k < 4 ∧ s.dbuf.read (off.toNat - 32 + k) = none) →
          s.hostAccess (.read32 off) =
            { s with fUndefData := true, reads := r :: s.reads, draws := s.draws + 1 })

/-- While a command runs, a host access other than a 32-bit read of BSTAT is held: the step that runs the command to
its end leaves the access waiting, with nothing read and no fault of the access; a read of BSTAT is made. It may come
before the command's first step, or after any step inside the command: the command then ends as it does with nothing to
come, but for what is still to come and what was read; what was made in it, in order, are reads of BSTAT, each of which
showed BUSY = 1; and a read that comes right after a step returns BSTAT as that step left it (10_state.md R16,
00_scope.md R7). After which step a read comes is counted by the model's field `after` (log 15). -/
def Obligations.BusyHoldsHostAccesses : Prop :=
  (∀ (s : State) (n : Nat) (a : HostAccess) (rest : List Input), s.busy = true →
    s.inputs = ⟨n, .access a⟩ :: rest → a ≠ .read32 0x08 →
    step s = s.runSequencer ∧
      ∃ t, step s = .next t ∧ t.busy = false ∧ t.inputs = s.inputs ∧ t.reads = s.reads) ∧
  (∀ (s : State) (rest : List Input), s.busy = true → s.inputs = ⟨0, .access (.read32 0x08)⟩ :: rest →
    step s = .next { s with inputs := rest, reads := s.bstat :: s.reads }) ∧
  (∀ (i : Instr) (s t : State), exec i s = .next t → t.resets = s.resets →
    (∃ t', exec i { s with inputs := [], reads := [] } = .next t' ∧
      t = { t' with inputs := t.inputs, reads := t.reads }) ∧
    ∃ made : List Word, t.reads = made ++ s.reads ∧ (∀ r ∈ made, r.getLsbD 3 = true) ∧
      s.inputs.map Input.act =
        List.replicate made.length (.access (.read32 0x08)) ++ t.inputs.map Input.act) ∧
  (∀ (f : State → State) (s : State) (rest : List Input), s.busy = true →
    (f s).inputs = ⟨1, .access (.read32 0x08)⟩ :: rest → (∀ j, rest.head? = some j → j.due = false) →
    s.tick f = { (f s).counted with inputs := rest, reads := (f s).bstat :: (f s).reads }) ∧
  ∀ (f : State → State) (s : State) (n : Nat) (rest : List Input), s.busy = true →
    (f s).inputs = ⟨n + 2, .access (.read32 0x08)⟩ :: rest →
    s.tick f = { (f s).counted with inputs := ⟨n + 1, .access (.read32 0x08)⟩ :: rest }

/-- R19: a host write of CMD while no command runs latches the word and starts the command; CMD reads as the last word
written and is 0 at reset; nothing else starts a command or writes CMD, but a reset clears it. -/
def Obligations.CmdWriteStartsCommand : Prop :=
  (∀ (s : State) (n : Nat) (w : Word) (rest : List Input), s.busy = false →
    s.inputs = ⟨n, .access (.write32 0x00 w)⟩ :: rest →
    step s = .next { s with cmd := w, cmdl := w, busy := true, upc := .step 0, inputs := rest }) ∧
  (∀ s : State, s.hostAccess (.read32 0x00) = { s with reads := s.cmd :: s.reads }) ∧ State.reset.cmd = 0 ∧
  ∀ s t : State, step s = .next t → (t.busy = true ∧ s.busy = false ∨ t.cmd ≠ s.cmd ∧ t.resets = s.resets) →
    s.busy = false ∧ ∃ n w rest, s.inputs = ⟨n, .access (.write32 0x00 w)⟩ :: rest ∧ t.cmd = w

/-! ### Faults -/

/-- The first check that fails, in the order INIT, CSN, data, ends the command in one step with no event: its sticky
bit, RESP with the code of R132 (2, 3 or 4), BUSY, and nothing else; the data check passes exactly when every byte it
covers is valid (60_exceptions.md R132, R133, R134, R136, R137, R138; 41_transport.md R75; 42_register_access.md R80).
What `cmdl`, `t0` and `tmp` hold after it is the model's choice (log 28). -/
def Obligations.FirstFailingCheckFaults : Prop :=
  (∀ (i : Instr) (s : State) (c : FaultCode), s.firstFault i = some c →
    exec i s = .next { s with
      fNotInit := s.fNotInit || c == .notInit
      fUndefData := s.fUndefData || c == .undefData
      fBusOpen := s.fBusOpen || c == .busOpen
      resp := match c with
        | .illegal => 0x80000001 | .notInit => 0x80000002 | .undefData => 0x80000003 | .busOpen => 0x80000004
      busy := false
      upc := .idle }) ∧
  ∀ (m : Memory) (n : Nat), m.validTo n = true ↔ ∀ k, k < n → m.read k ≠ none

/-- A command that completes without a fault leaves RESP[31] = 0, and one that faults leaves 0x8000_0000 with the code
of R132 (1, 2, 3, 4); RESP is 0 at reset (10_state.md R20, 60_exceptions.md R132). A command that passes its checks
completes (60_exceptions.md R134); that SEND and TXCYCLE do rests on the model's clock, which grants the fairness of
60_exceptions.md R140, law 3, by construction (log 4) and ends a SEND whose wait left no lawful read (log 5). -/
def Obligations.ResponseTellsFault : Prop :=
  State.reset.resp = 0 ∧
  (∀ (i : Instr) (s : State), i.isSpi = false →
    (s.firstFault i = none → ∃ t, exec i s = .next t ∧ t.busy = false ∧ t.resp.getLsbD 31 = false ∧
      (s.noReset = true → ∀ c, t.faultBit c = s.faultBit c)) ∧
    ∀ c, s.firstFault i = some c → ∃ t, exec i s = .next t ∧ t.busy = false ∧ t.resp = 0x80000000 ||| c.code) ∧
  FaultCode.code .illegal = 1 ∧ FaultCode.code .notInit = 2 ∧ FaultCode.code .undefData = 3 ∧
    FaultCode.code .busOpen = 4

/-- R28: the fault bits are sticky: a fault sets its bit, and no step of the machine clears one but a reset, which
leaves each at 0. -/
def Obligations.FaultBitsSticky : Prop :=
  (∀ (s t : State) (c : FaultCode), step s = .next t → s.faultBit c = true → t.resets = s.resets →
    t.faultBit c = true) ∧
  (∀ (i : Instr) (s : State) (c : FaultCode), s.firstFault i = some c →
    ∃ t, exec i s = .next t ∧ t.faultBit c = true) ∧
  (∀ (s : State) (k : Nat) (e : DecodeError), s.sequencerTurn = true → s.upc = .step k → s.fetch = .error e →
    ∃ t, step s = .next t ∧ t.fIllegal = true) ∧
  ∀ (s : State) (c : FaultCode), s.resetInput.faultBit c = false ∧ State.reset.faultBit c = false

/-! ### Invariants and whole-machine rules -/

/-- Every step keeps the invariant of `State.sound`: DBUF canonical, PAYLOAD_SIZE in 1..32, INIT = 0 exactly in
PoweredDown, undriven lines at their reset levels, LINK_LED the copy of LAST_SEND_OK, no signal with a missed cycle,
and the sequencer idle exactly when BUSY = 0 (10_state.md R17, R24, R25, R30, R31, R33; 43_transceiver_control.md R89;
46_link_consumer.md R122, R130). -/
def Obligations.StepKeepsSoundness : Prop :=
  ∀ s t : State, s.sound = true → step s = .next t → t.sound = true

/-- The state after reset meets that invariant. -/
def Obligations.ResetIsSound : Prop := State.reset.sound = true

/-- R89: MODE changes only by reset (no host access writes it), BEGIN, STARTL, STOPL, SEND and TXCYCLE, to the mode the
table gives, and only when the command passes its checks; INIT is 0 exactly when MODE is PoweredDown in every sound
state, so that from PoweredDown STARTL, STOPL, SEND and TXCYCLE fault with FAULT_NOT_INIT. -/
def Obligations.ModeMachine : Prop :=
  (∀ (i : Instr) (s t : State), s.noReset = true → exec i s = .next t →
    t.mode = if s.firstFault i = none then modeAfter s.mode i else s.mode) ∧
  (∀ (s : State) (a : HostAccess), s.resetInput.mode = .poweredDown ∧ (s.hostAccess a).mode = s.mode) ∧
  (∀ s : State, s.sound = true → (s.init = false ↔ s.mode = .poweredDown)) ∧
  ∀ (i : Instr) (s : State), s.sound = true → s.mode = .poweredDown → modeAfter .standby i ≠ .standby →
    s.firstFault i = some .notInit

/-- R23: INIT is 0 at reset, BEGIN sets it, no other command writes it, and while it is 0 every command that touches
the bus but BEGIN faults with FAULT_NOT_INIT. That the hidden scratch keeps its values then is the model's choice (log
28). -/
def Obligations.InitWrittenByBegin : Prop :=
  State.reset.init = false ∧
  (∀ (s : State) (a : HostAccess), s.resetInput.init = false ∧ (s.hostAccess a).init = s.init) ∧
  (∀ (i : Instr) (s t : State), s.noReset = true → exec i s = .next t → t.init = (i.isBegin || s.init)) ∧
  ∀ (i : Instr) (s : State), s.init = false → (i.isTransport || i.isComposite) = true →
    exec i s = .next { s with fNotInit := true, resp := 0x80000002, busy := false, upc := .idle }

/-- The raw commands never update a shadow of device state: PAYLOAD_SIZE and MODE keep their values (10_state.md R37,
70_reset_and_hazards.md R159). -/
def Obligations.RawCommandsKeepShadows : Prop :=
  ∀ (i : Instr) (s t : State), i.isRaw = true → s.noReset = true → exec i s = .next t →
    t.payloadSize = s.payloadSize ∧ t.mode = s.mode

/-- R122: only RXCYCLE writes MISSED and SIGNAL_PRESENT. A cycle whose status poll (the second byte `v` it draws) shows
RX_DR sets MISSED to 0 and SIGNAL_PRESENT to 1; one without adds 1, saturating at 255, and sets SIGNAL_PRESENT to 0.
MISSED resets to 0. -/
def Obligations.MissedCountsLostCycles : Prop :=
  State.reset.missed = 0 ∧
  (∀ (s : State) (a : HostAccess), s.resetInput.missed = 0 ∧ (s.hostAccess a).missed = s.missed) ∧
  (∀ (i : Instr) (s t : State), i.isRxcycle = false → s.noReset = true → exec i s = .next t →
    t.missed = s.missed ∧ t.signalPresent = s.signalPresent) ∧
  ∀ (s : State) (a : Byte), s.quiet = true → s.init = true → s.csn = true →
    ∃ (t : State) (v : Byte), exec (.rxcycle a) s = .next t ∧ t.answers.reverse[s.answers.length + 1]? = some v ∧
      t.signalPresent = v.getLsbD 6 ∧
      t.missed.toNat = if v.getLsbD 6 then 0 else min (s.missed.toNat + 1) 255

/-- R128: an RXCYCLE whose status poll (the second byte `v` the command draws) finds RX_DR = 0 leaves both motors off,
whatever the previous command was; the last good packet stays in LASTPKT. Which byte is drawn is the device's, so the
draw stands in the conclusion. -/
def Obligations.NoSignalStopsMotors : Prop :=
  ∀ (s : State) (a : Byte), s.quiet = true → s.init = true → s.csn = true →
    ∃ (t : State) (v : Byte), exec (.rxcycle a) s = .next t ∧ t.answers.reverse[s.answers.length + 1]? = some v ∧
      (v.getLsbD 6 = true ∨ t.motorsOff = true ∧ t.lastPkt = s.lastPkt)

/-- Only RXCYCLE writes LASTPKT (10_state.md R32, 46_link_consumer.md R129), and only SEND and TXCYCLE write
LAST_SEND_OK and LINK_LED, which stay equal (10_state.md R26, 46_link_consumer.md R130). -/
def Obligations.SessionRegisterWriters : Prop :=
  ∀ (i : Instr) (s t : State), s.noReset = true → exec i s = .next t →
    (i.isRxcycle = false → t.lastPkt = s.lastPkt) ∧
    (i.mnemonic ≠ "SEND" → i.mnemonic ≠ "TXCYCLE" → t.lastSendOk = s.lastSendOk ∧ t.linkLed = s.linkLed) ∧
    (s.linkLed = s.lastSendOk → t.linkLed = t.lastSendOk)

/-- True time, of which every clock read shows the low 32 bits, never goes back in a step (60_exceptions.md R140, law
1; log 4). -/
def Obligations.TimeNeverDecreases : Prop :=
  ∀ s t : State, step s = .next t → s.time ≤ t.time

/-- The events and the drawn answers only grow: a command's events all come after those of the command before it
(20_memory.md R52, 30_encoding.md R74). -/
def Obligations.HistoryOnlyGrows : Prop :=
  ∀ s t : State, step s = .next t → s.history <:+ t.history ∧ s.answers <:+ t.answers

/-- Every command but the raw CSN leaves chip-select as it found it or deasserted, and a composite command or BEGIN
that passes its checks ends with every scope closed (20_memory.md R50, R53; 10_state.md R25). -/
def Obligations.CompositeCommandsCloseScopes : Prop :=
  (∀ (i : Instr) (s t : State), (∀ a, i ≠ .csn a) → exec i s = .next t → t.csn = s.csn ∨ t.csn = true) ∧
  ∀ (i : Instr) (s t : State), (i.isComposite || i.isBegin) = true → s.firstFault i = none → exec i s = .next t →
    t.csn = true

/-- Every DBUF byte beyond those a command's rule lets it write keeps its value and its validity; a command that faults
writes none (10_state.md R17, 60_exceptions.md R133). -/
def Obligations.DbufFrame : Prop :=
  ∀ (i : Instr) (s t : State) (k : Nat), s.noReset = true → exec i s = .next t →
    (s.mayWrite i ≤ k ∨ s.firstFault i ≠ none) → t.dbuf.read k = s.dbuf.read k

/-! ### Reset -/

/-- The state after reset, register by register and as the host reads it, and the reset input, which leaves the same:
what the spec leaves unspecified (`cmdl`, `t0`, `tmp`) is not named here (70_reset_and_hazards.md R148; 10_state.md
R14, R21, R32, R33, R34). -/
def Obligations.ResetValues : Prop :=
  ∀ s : State, ∀ r ∈ [State.reset, s.resetInput],
    r.cmd = 0 ∧ r.resp = 0 ∧ r.bstat = 0x20000010 ∧ r.lastPkt = 0x01010000 ∧ r.motor = 0x00010000 ∧ r.link = 0 ∧
      (∀ i, r.dbuf.read i = none) ∧ r.upc = .idle ∧ r.mode = .poweredDown ∧ r.init = false ∧ r.busy = false ∧
      r.csn = true ∧ r.ce = false ∧ r.pinsDriven = false ∧ r.payloadSize = 32 ∧ r.lastStatus = 0

/-- Reset abandons a command at once: when a reset lands in a command, whichever it is and wherever it lands, no
further step of the command changes anything: the registers are those of the reset state, and the last thing recorded
is the reset itself, with no fault (70_reset_and_hazards.md R148, R149). It lands at once: before the command if it is
due then, else right after the step it comes after, with no step held back in between, and once it has landed, a step or
an assignment of the command does nothing (after which step it comes is counted by the model's field `after`, log 15).
That `cmdl`, `t0` and `tmp`, which R148 leaves
unspecified, are those of the reset state is the model's choice (log 9), and so is what of the device, the clock and
the host stays (log 16). -/
def Obligations.ResetAbandonsCommand : Prop :=
  (∀ (i : Instr) (s t : State), exec i s = .next t → s.resets < t.resets →
    t.history.head? = some .reset ∧ t = { State.reset with
      history := t.history, answers := t.answers, draws := t.draws, time := t.time, inputs := t.inputs
      reads := t.reads }) ∧
  (∀ (s : State) (rest : List Input), s.inputs = ⟨0, .reset⟩ :: rest →
    step s = .next { State.reset with
      history := .reset :: s.history, answers := s.answers, draws := s.draws, time := s.time, inputs := rest
      reads := s.reads }) ∧
  (∀ (f : State → State) (s : State) (n : Nat) (rest : List Input), s.busy = true → n ≤ 1 →
    (f s).inputs = ⟨n, .reset⟩ :: rest →
    s.tick f = { State.reset with
      history := .reset :: (f s).history, answers := (f s).answers, draws := (f s).draws, time := (f s).time
      inputs := rest, reads := (f s).reads }) ∧
  (∀ (f : State → State) (s : State) (n : Nat) (rest : List Input), s.busy = true →
    (f s).inputs = ⟨n + 2, .reset⟩ :: rest →
    s.tick f = { (f s).counted with inputs := ⟨n + 1, .reset⟩ :: rest }) ∧
  ∀ (f : State → State) (s : State), s.busy = false → s.tick f = s ∧ s.assign f = s

/-! ### The packet, the motors, the edge detector, the clock -/

/-- R102: `Decode(Encode(p)) = p` for every packet of four `i8` values, and `Encode(Decode(b)) = b` for every four
bytes. -/
def Obligations.PacketRoundTrip : Prop :=
  (∀ x y sw trigger : Int, -128 ≤ x → x ≤ 127 → -128 ≤ y → y ≤ 127 → -128 ≤ sw → sw ≤ 127 → -128 ≤ trigger →
    trigger ≤ 127 →
    ∃ b0 b1 b2 b3, (Packet.mk x y sw trigger).encode = [b0, b1, b2, b3] ∧
      Packet.decode b0 b1 b2 b3 = ⟨x, y, sw, trigger⟩) ∧
  ∀ b0 b1 b2 b3 : Byte, (Packet.decode b0 b1 b2 b3).encode = [b0, b1, b2, b3]

/-- A packet in a word: byte `i` of the wire packet at bits [8i+7:8i], and back (10_state.md R32, 20_memory.md R46,
44_packet_framer.md R106). -/
def Obligations.PacketWordLayout : Prop :=
  (∀ p : Packet, ∀ k, k < 4 → p.encode[k]? = some (p.toWord.extractLsb' (8 * k) 8)) ∧
    ∀ w : Word, (Packet.ofWord w).toWord = w

/-- The deadzone: a value nearer to 0 than `DEADZONE` becomes 0 and any other passes unaltered, -128 included;
`DEADZONE` is in 0..128 (44_packet_framer.md R103). -/
def Obligations.DeadzoneForcesZero : Prop :=
  Config.deadzone ≤ 128 ∧
    ∀ v : Int, deadzone v = if -(Config.deadzone : Int) < v ∧ v < Config.deadzone then 0 else v

/-- R105: `AXIS_MAP` stays in -128..127, and it is monotonic over all samples, rising or falling. -/
def Obligations.AxisMapObligations : Prop :=
  (∀ a : BitVec 10, -128 ≤ Config.axisMap a ∧ Config.axisMap a ≤ 127) ∧
    ((∀ a a' : BitVec 10, a.toNat ≤ a'.toNat → Config.axisMap a ≤ Config.axisMap a') ∨
      ∀ a a' : BitVec 10, a.toNat ≤ a'.toNat → Config.axisMap a' ≤ Config.axisMap a)

/-- R123: the motor mapping of every packet: the magnitude is twice `|y|`, at most 255, forward when `y` is not
negative; one motor is cut beyond the threshold, strictly; the neutral packet stops both. -/
def Obligations.MotorMapping : Prop :=
  (∀ p : Packet,
    (motorLeft p).toNat = (if p.x < -100 then 0 else min 255 (2 * p.y.natAbs)) ∧
    (motorRight p).toNat = (if 100 < p.x then 0 else min 255 (2 * p.y.natAbs)) ∧
    (motorForward p = true ↔ 0 ≤ p.y)) ∧
  (∀ (p : Packet) (s : State), s.busy = true →
    s.motorOut p = { s with pwmL := motorLeft p, pwmR := motorRight p, dirFwd := motorForward p }) ∧
  motorLeft Packet.neutral = 0 ∧ motorRight Packet.neutral = 0

/-- R119 over any sequence of samples: ARMED toggles once for each rising edge, held samples and releases toggle
nothing, and PREV_PRESSED ends as the last sample. -/
def Obligations.ArmedCountsRisingEdges : Prop :=
  ∀ (samples : List Bool) (s : State), ∃ t, runAll (samples.map debounceOf) s = some t ∧
    t.armed = (s.armed != (risingEdges s.prevPressed samples % 2 == 1)) ∧
    t.prevPressed = samples.getLastD s.prevPressed

/-- In SEND's loop the wrapping difference of two clock values is the true elapsed time, across a clock wrap too, and
the iteration that fairness grants finds the deadline passed (60_exceptions.md R140; 45_ack_sequencer.md R115; the
clock's draws are the model's, log 4). No read is before the least time, and where a wait has left no time that the laws
allow, the read ends the SEND, which is the model's choice (log 5). -/
def Obligations.PollClockLaws : Prop :=
  (∀ (s : State) (start : Nat), start ≤ s.time → s.time < start + 2 ^ 32 →
    (∀ last, s.time ≤ s.pollTime start last ∧ s.pollTime start last < start + 2 ^ 32 ∧
      (BitVec.ofNat 32 (s.pollTime start last) - BitVec.ofNat 32 start).toNat = s.pollTime start last - start ∧
      (deadlinePassed (BitVec.ofNat 32 (s.pollTime start last)) (BitVec.ofNat 32 start) = true ↔
        start + 50 ≤ s.pollTime start last)) ∧
    start + 50 ≤ s.pollTime start true) ∧
  (∀ (s : State) (start : Nat) (last : Bool), s.time ≤ s.pollTime start last) ∧
  ∀ (s : State) (start : Nat) (last : Bool), start + 2 ^ 32 ≤ s.time →
    deadlinePassed (BitVec.ofNat 32 (s.pollTime start last)) (BitVec.ofNat 32 start) = true

/-! ### Transport -/

/-- XFER: one exchange; RESP is the byte drawn; LAST_STATUS and every other register stay (41_transport.md R76). What
`cmdl`, `t0` and `tmp` hold after it is the model's choice (log 28). -/
def Obligations.XferResult : Prop :=
  ∀ (c : Byte) (s : State), s.quiet = true → s.init = true →
    ∃ r : Byte, exec (.xfer c) s = .next { s with
      resp := r.setWidth 32, tmp := r, busy := false, upc := .idle
      history := .xfer c :: s.history, answers := r :: s.answers, draws := s.draws + 1 }

/-- CSN and CE: the edge and its settle wait, with RESP 0; the level, with no wait and MODE unchanged (41_transport.md
R77, R78). What `cmdl`, `t0` and `tmp` hold after it is the model's choice (log 28). -/
def Obligations.CsnAndCeResult : Prop :=
  ∀ (a : Byte) (s : State), s.quiet = true → s.init = true →
    exec (.csn a) s = .next { s with
      csn := !a.getLsbD 0, resp := 0, busy := false, upc := .idle
      history := .wait 1 :: .csn (!a.getLsbD 0) :: s.history } ∧
    exec (.ce a) s = .next { s with
      ce := a.getLsbD 0, resp := 0, busy := false, upc := .idle, history := .ce (a.getLsbD 0) :: s.history }

/-! ### Register access -/

/-- WREG: one scope `[20|reg d0 d1 …]` of the first `min(B, 32)` DBUF bytes; RESP and LAST_STATUS are the status drawn
on the command byte (42_register_access.md R82, R83, R81). The bytes of DBUF from index 0 on, here and in the
statements below, are those a read of each index gives. What `cmdl`, `t0` and `tmp` hold after it is the model's choice
(log 28). -/
def Obligations.WregResult : Prop :=
  (∀ (s : State) (n k : Nat) (v : Byte), k < n → s.dbuf.read k = some v →
    (s.dbufBytes 0 n).length = n ∧ (s.dbufBytes 0 n)[k]? = some v) ∧
  ∀ (a b : Byte) (s : State), s.quiet = true → s.init = true → s.csn = true →
    s.dbuf.validTo (min b.toNat 32) = true →
    ∃ (st : Byte) (ds : List Byte), ds.length = min b.toNat 32 ∧
      exec (.wreg a b) s = .next { s with
        lastStatus := st, resp := st.setWidth 32, busy := false, upc := .idle
        history := (scopeEvents ((0x20 ||| (a &&& 0x1F)) :: s.dbufBytes 0 (min b.toNat 32))).reverse ++ s.history
        answers := ds.reverse ++ st :: s.answers
        draws := s.draws + (1 + min b.toNat 32) }

/-- RREG: one scope `[00|reg FF]`; RESP is the data byte, LAST_STATUS the status (42_register_access.md R84, R83). What
`cmdl`, `t0` and `tmp` hold after it is the model's choice (log 28). -/
def Obligations.RregResult : Prop :=
  ∀ (a : Byte) (s : State), s.quiet = true → s.init = true → s.csn = true →
    ∃ st v : Byte, exec (.rreg a) s = .next { s with
      lastStatus := st, tmp := v, resp := v.setWidth 32, busy := false, upc := .idle
      history := (scopeEvents [a &&& 0x1F, 0xFF]).reverse ++ s.history
      answers := v :: st :: s.answers, draws := s.draws + 2 }

/-- RREGB: one scope of `min(B, 32)` dummy bytes, whose answers go into DBUF from byte 0 on, in order
(42_register_access.md R85). Answers written into DBUF in order, here and in the statements below, are what a read of
each index gives after; no other index changes. What `cmdl`, `t0` and `tmp` hold after it is the model's choice (log
28). -/
def Obligations.RregbResult : Prop :=
  (∀ (m : Memory) (ds : List Byte) (k : Nat),
    (m.writeAll 0 ds).read k = if k < ds.length then ds[k]? else m.read k) ∧
  ∀ (a b : Byte) (s : State), s.quiet = true → s.init = true → s.csn = true →
    ∃ (st : Byte) (ds : List Byte), ds.length = min b.toNat 32 ∧
      exec (.rregb a b) s = .next { s with
        lastStatus := st, resp := st.setWidth 32, dbuf := s.dbuf.writeAll 0 ds, busy := false, upc := .idle
        history := (scopeEvents ((a &&& 0x1F) :: List.replicate (min b.toNat 32) 0xFF)).reverse ++ s.history
        answers := ds.reverse ++ st :: s.answers
        draws := s.draws + (1 + min b.toNat 32) }

/-- WPAY: one scope of the command byte, `min(n, PAYLOAD_SIZE)` DBUF bytes and pad bytes up to PAYLOAD_SIZE
(42_register_access.md R86). What `cmdl`, `t0` and `tmp` hold after it is the model's choice (log 28). -/
def Obligations.WpayResult : Prop :=
  ∀ (b c : Byte) (s : State), s.quiet = true → s.init = true → s.csn = true →
    s.dbuf.validTo (min (min b.toNat 32) s.payloadSize.toNat) = true →
    ∃ (st : Byte) (ds : List Byte), ds.length = s.payloadSize.toNat ∧
      exec (.wpay b c) s = .next { s with
        lastStatus := st, resp := st.setWidth 32, busy := false, upc := .idle
        history := (scopeEvents (c :: (s.dbufBytes 0 (min (min b.toNat 32) s.payloadSize.toNat) ++
          List.replicate (s.payloadSize.toNat - min b.toNat 32) 0x00))).reverse ++ s.history
        answers := ds.reverse ++ st :: s.answers
        draws := s.draws + (1 + s.payloadSize.toNat) }

/-- RPAY: one scope of `PAYLOAD_SIZE` dummy bytes after 0x61; the first `min(n, PAYLOAD_SIZE)` answers go into DBUF,
the others are drained (42_register_access.md R87). What `cmdl`, `t0` and `tmp` hold after it is the model's choice
(log 28). -/
def Obligations.RpayResult : Prop :=
  ∀ (b : Byte) (s : State), s.quiet = true → s.init = true → s.csn = true →
    ∃ (st : Byte) (ds drained : List Byte), ds.length = min (min b.toNat 32) s.payloadSize.toNat ∧
      ds.length + drained.length = s.payloadSize.toNat ∧
      exec (.rpay b) s = .next { s with
        lastStatus := st, resp := st.setWidth 32, dbuf := s.dbuf.writeAll 0 ds, busy := false, upc := .idle
        history := (scopeEvents (0x61 :: List.replicate s.payloadSize.toNat 0xFF)).reverse ++ s.history
        answers := (ds ++ drained).reverse ++ st :: s.answers
        draws := s.draws + (1 + s.payloadSize.toNat) }

/-- FLUSHTX: the scope `[E1]` (42_register_access.md R88). What `cmdl`, `t0` and `tmp` hold after it is the model's
choice (log 28). -/
def Obligations.FlushtxResult : Prop :=
  ∀ s : State, s.quiet = true → s.init = true → s.csn = true →
    ∃ st : Byte, exec .flushtx s = .next { s with
      lastStatus := st, resp := st.setWidth 32, busy := false, upc := .idle
      history := (scopeEvents [0xE1]).reverse ++ s.history, answers := st :: s.answers, draws := s.draws + 1 }

/-! ### Transceiver control -/

/-- BEGIN, from any INIT and with a raw scope open or not: the lines, the power-up, the payload size 32, EN_AA and
EN_RXADDR, then MODE Standby and INIT 1 (43_transceiver_control.md R90, R92). What `cmdl`, `t0` and `tmp` hold after it
is the model's choice (log 28); `time` is the model's clock (log 4). -/
def Obligations.BeginResult : Prop :=
  ∀ s : State, s.quiet = true →
    ∃ (ans : List Byte) (st : Byte), ans.length = 18 ∧ ans[16]? = some st ∧
      exec .beginLink s = .next { s with
        pinsDriven := true, ce := false, csn := true, lastStatus := st, payloadSize := 32, mode := .standby
        init := true, resp := 0, busy := false, upc := .idle
        history := ([Event.ce false, .csn true, .wait 1] ++ scopeEvents [0x20, 0x0A] ++
          [Event.wait Config.tPwrupUs] ++
          ((List.range 6).flatMap fun p => scopeEvents [0x31 + BitVec.ofNat 8 p, 0x20]) ++
          scopeEvents [0x21, 0x01] ++ scopeEvents [0x22, 0x01]).reverse ++ s.history
        answers := ans.reverse ++ s.answers, draws := s.draws + 18, time := s.time + Config.tPwrupUs / 1000 }

/-- SETCH: the clamped channel is written to RF_CH and returned (43_transceiver_control.md R91). What `cmdl`, `t0` and
`tmp` hold after it is the model's choice (log 28). -/
def Obligations.SetchResult : Prop :=
  ∀ (c : Byte) (s : State), s.quiet = true → s.init = true → s.csn = true →
    ∃ st d : Byte, exec (.setch c) s = .next { s with
      lastStatus := st, resp := BitVec.ofNat 32 (min c.toNat 125), busy := false, upc := .idle
      history := (scopeEvents [0x25, BitVec.ofNat 8 (min c.toNat 125)]).reverse ++ s.history
      answers := d :: st :: s.answers, draws := s.draws + 2 }

/-- SETPS: the clamped size becomes PAYLOAD_SIZE and RESP and is written to the six RX_PW registers in order
(43_transceiver_control.md R92). What `cmdl`, `t0` and `tmp` hold after it is the model's choice (log 28). -/
def Obligations.SetpsResult : Prop :=
  ∀ (c : Byte) (s : State), s.quiet = true → s.init = true → s.csn = true →
    ∃ (ans : List Byte) (st : Byte), ans.length = 12 ∧ ans[10]? = some st ∧
      exec (.setps c) s = .next { s with
        lastStatus := st, payloadSize := BitVec.ofNat 6 (min (max c.toNat 1) 32)
        resp := BitVec.ofNat 32 (min (max c.toNat 1) 32), busy := false, upc := .idle
        history := ((List.range 6).flatMap fun p =>
          scopeEvents [0x31 + BitVec.ofNat 8 p, BitVec.ofNat 8 (min (max c.toNat 1) 32)]).reverse ++ s.history
        answers := ans.reverse ++ s.answers, draws := s.draws + 12 }

/-- OPENW: the five address bytes go to TX_ADDR and to RX_ADDR_P0, which so stay identical (43_transceiver_control.md
R93). What `cmdl`, `t0` and `tmp` hold after it is the model's choice (log 28). -/
def Obligations.OpenwResult : Prop :=
  ∀ s : State, s.quiet = true → s.init = true → s.csn = true → s.dbuf.validTo 5 = true →
    ∃ (ans : List Byte) (st : Byte), ans.length = 12 ∧ ans[6]? = some st ∧
      exec .openw s = .next { s with
        lastStatus := st, resp := 0, busy := false, upc := .idle
        history := (scopeEvents (0x30 :: s.dbufBytes 0 5) ++ scopeEvents (0x2A :: s.dbufBytes 0 5)).reverse ++ s.history
        answers := ans.reverse ++ s.answers, draws := s.draws + 12 }

/-- OPENR: for a pipe 0..5 the address, then the read-modify-write of EN_RXADDR with the value `e` drawn; above 5
nothing but RESP 0 (43_transceiver_control.md R94, 30_encoding.md R70). What `cmdl`, `t0` and `tmp` hold after it is
the model's choice (log 28). -/
def Obligations.OpenrResult : Prop :=
  (∀ (a : Byte) (s : State), s.quiet = true → s.init = true → s.csn = true → a.toNat ≤ 5 →
    s.dbuf.validTo (if a.toNat ≤ 1 then 5 else 1) = true →
    ∃ (ans : List Byte) (e st : Byte), ans.length = (if a.toNat ≤ 1 then 10 else 6) ∧
      ans[if a.toNat ≤ 1 then 7 else 3]? = some e ∧ ans[if a.toNat ≤ 1 then 8 else 4]? = some st ∧
      exec (.openr a) s = .next { s with
        lastStatus := st, tmp := e, resp := 1, busy := false, upc := .idle
        history := (scopeEvents ((0x2A + a) :: s.dbufBytes 0 (if a.toNat ≤ 1 then 5 else 1)) ++
          scopeEvents [0x02, 0xFF] ++ scopeEvents [0x22, e ||| 1 <<< a.toNat]).reverse ++ s.history
        answers := ans.reverse ++ s.answers, draws := s.draws + ans.length }) ∧
  ∀ (a : Byte) (s : State), s.init = true → s.csn = true → 5 < a.toNat →
    exec (.openr a) s = .next { s with resp := 0, busy := false, upc := .idle }

/-- STARTL and STOPL: PRIM_RX set or cleared in the CONFIG value `v` drawn, CE, the settle wait, MODE
(43_transceiver_control.md R95, R96, R99). What `cmdl`, `t0` and `tmp` hold after it is the model's choice (log 28). -/
def Obligations.StartlAndStoplResult : Prop :=
  ∀ s : State, s.quiet = true → s.init = true → s.csn = true →
    (∃ s1 v s2 d : Byte, exec .startl s = .next { s with
      ce := true, mode := .listening, lastStatus := s2, tmp := v, resp := 0, busy := false, upc := .idle
      history := (scopeEvents [0x00, 0xFF] ++ scopeEvents [0x20, v ||| 0x01] ++ [Event.ce true, .wait 130]).reverse ++
        s.history
      answers := d :: s2 :: v :: s1 :: s.answers, draws := s.draws + 4 }) ∧
    ∃ s1 v s2 d : Byte, exec .stopl s = .next { s with
      ce := false, mode := .idle, lastStatus := s2, tmp := v, resp := 0, busy := false, upc := .idle
      history := ([Event.ce false] ++ scopeEvents [0x00, 0xFF] ++ scopeEvents [0x20, v &&& 0xFE] ++ [Event.wait 130]).reverse ++
        s.history
      answers := d :: s2 :: v :: s1 :: s.answers, draws := s.draws + 4 }

/-! ### Packet framer -/

/-- FRAME, in every state: the packet of the mapped, deadzoned samples and the inverted pins in DBUF and RESP; no bus,
no check (44_packet_framer.md R106, R103, R104, R101). What `cmdl`, `t0` and `tmp` hold after it is the model's choice
(log 28). -/
def Obligations.FrameResult : Prop :=
  ∀ (ax ay : BitVec 10) (trg sw : Bool) (s : State),
    exec (.frame ax ay trg sw) s = .next { s with
      dbuf := s.dbuf.writeAll 0 [BitVec.ofInt 8 (deadzone (Config.axisMap ax)),
        BitVec.ofInt 8 (deadzone (Config.axisMap ay)), if sw then 0 else 1, if trg then 0 else 1]
      resp := wordOfBytes (BitVec.ofInt 8 (deadzone (Config.axisMap ax)))
        (BitVec.ofInt 8 (deadzone (Config.axisMap ay))) (if sw then 0 else 1) (if trg then 0 else 1)
      busy := false, upc := .idle }

/-! ### Ack sequencer -/

/-- SEND: stop listening, the payload, the CE pulse, the clock, then polls that find neither a flag nor the deadline
passed, and one poll that ends it as ack, nack or timeout, with that end's events, RESP and LAST_SEND_OK
(45_ack_sequencer.md R109 to R116; the flags are bits 5 and 4 of the STATUS value, 30_encoding.md R66). That it ends,
and its clock values, rest on the model's clock, which grants 60_exceptions.md R140, law 3 (log 4), and ends a SEND whose
wait left no lawful read (log 5). What `cmdl`, `t0` and `tmp` hold after it is the model's choice (log 28). -/
def Obligations.SendResult : Prop :=
  ∀ (b : Byte) (s : State), s.quiet = true → s.init = true → s.csn = true →
    s.dbuf.validTo (min (min b.toNat 32) s.payloadSize.toNat) = true →
    ∃ (s1 v : Byte) (pay : List Byte) (start : Nat) (misses : List Poll) (last : Poll) (o : SendOutcome) (st : Byte)
      (tail : List Byte) (d t : Nat),
      s.time ≤ start ∧ start ≤ t ∧ s.draws ≤ d ∧ misses.all (Poll.missed (BitVec.ofNat 32 start)) = true ∧
      last.ends (BitVec.ofNat 32 start) o = true ∧ pay.length = 3 + s.payloadSize.toNat ∧
      tail.length = o.endLength ∧ tail[o.statusIndex]? = some st ∧
      exec (.send b) s = .next { s with
        ce := false, mode := .idle, lastStatus := st, tmp := last.value, t0 := BitVec.ofNat 32 start
        lastSendOk := o == .ack, linkLed := o == .ack
        resp := match o with | .ack => 0x00000001 | .nack => 0x00000100 | .timeout => 0x00000200
        busy := false, upc := .idle
        history := (sendEvents v (s.dbufBytes 0 (min (min b.toNat 32) s.payloadSize.toNat) ++
          List.replicate (s.payloadSize.toNat - min b.toNat 32) 0x00) (BitVec.ofNat 32 start) misses last o).reverse ++
            s.history
        answers := (s1 :: v :: pay ++ misses.flatMap Poll.answers ++ last.answers ++ tail).reverse ++ s.answers
        draws := d, time := t }

/-- AVAIL: one status poll; RESP is RX_DR of the data byte; nothing is cleared (45_ack_sequencer.md R117). What `cmdl`,
`t0` and `tmp` hold after it is the model's choice (log 28). -/
def Obligations.AvailResult : Prop :=
  ∀ s : State, s.quiet = true → s.init = true → s.csn = true →
    ∃ st v : Byte, exec .avail s = .next { s with
      lastStatus := st, tmp := v, resp := if v.getLsbD 6 then 1 else 0, busy := false, upc := .idle
      history := (scopeEvents [0x07, 0xFF]).reverse ++ s.history, answers := v :: st :: s.answers
      draws := s.draws + 2 }

/-- READ: the payload read, then RX_DR cleared; RESP is the status drawn on 0x61 and LAST_STATUS the one on the
clearing write (45_ack_sequencer.md R118). What `cmdl`, `t0` and `tmp` hold after it is the model's choice (log 28). -/
def Obligations.ReadResult : Prop :=
  ∀ (b : Byte) (s : State), s.quiet = true → s.init = true → s.csn = true →
    ∃ (s1 s2 d : Byte) (ds drained : List Byte), ds.length = min (min b.toNat 32) s.payloadSize.toNat ∧
      ds.length + drained.length = s.payloadSize.toNat ∧
      exec (.read b) s = .next { s with
        lastStatus := s2, resp := s1.setWidth 32, dbuf := s.dbuf.writeAll 0 ds, busy := false, upc := .idle
        history := (scopeEvents (0x61 :: List.replicate s.payloadSize.toNat 0xFF) ++ scopeEvents [0x27, 0x40]).reverse ++
          s.history
        answers := d :: s2 :: ((ds ++ drained).reverse ++ s1 :: s.answers)
        draws := s.draws + (3 + s.payloadSize.toNat) }

/-! ### Link consumer -/

/-- DEBOUNCE, in every state: one sample of the edge detector, ARMED in RESP; no bus, no check (46_link_consumer.md
R119, R120). What `cmdl`, `t0` and `tmp` hold after it is the model's choice (log 28). -/
def Obligations.DebounceResult : Prop :=
  ∀ (a : Byte) (s : State),
    exec (.debounce a) s = .next { s with
      armed := if a.getLsbD 0 && !s.prevPressed then !s.armed else s.armed
      prevPressed := a.getLsbD 0
      resp := if (if a.getLsbD 0 && !s.prevPressed then !s.armed else s.armed) then 1 else 0
      busy := false, upc := .idle }

/-- MOTORMAP: the motor mapping of `dbuf[0]` and `dbuf[1]`; no bus, no INIT or CSN check (46_link_consumer.md R123,
R124). What `cmdl`, `t0` and `tmp` hold after it is the model's choice (log 28). -/
def Obligations.MotormapResult : Prop :=
  ∀ (x y : Byte) (s : State), s.dbuf.read 0 = some x → s.dbuf.read 1 = some y →
    exec .motormap s = .next { s with
      pwmL := motorLeft ⟨x.toInt, y.toInt, 0, 0⟩, pwmR := motorRight ⟨x.toInt, y.toInt, 0, 0⟩
      dirFwd := decide (0 ≤ y.toInt)
      resp := (motorLeft ⟨x.toInt, y.toInt, 0, 0⟩).setWidth 32 |||
        (motorRight ⟨x.toInt, y.toInt, 0, 0⟩).setWidth 32 <<< 8 |||
        (if 0 ≤ y.toInt then 0x00010000 else 0 : Word)
      busy := false, upc := .idle }

/-- RXCYCLE: the edge detector, a status poll with the value `v`; with RX_DR a packet is read, cleared, kept in LASTPKT
and drives the motors; without one the neutral packet does; then the wait (46_link_consumer.md R125, R121, R123). Where
a DBUF byte of the packet was never written (PAYLOAD_SIZE below 4) the byte is free (log 11). What `cmdl`, `t0` and
`tmp` hold after it is the model's choice (log 28); `time` is the model's clock (log 4). -/
def Obligations.RxcycleResult : Prop :=
  ∀ (a : Byte) (s : State), s.quiet = true → s.init = true → s.csn = true →
    let armed := if a.getLsbD 0 && !s.prevPressed then !s.armed else s.armed
    (∃ s1 v : Byte, v.getLsbD 6 = false ∧ exec (.rxcycle a) s = .next { s with
      armed := armed, prevPressed := a.getLsbD 0, lastStatus := s1, tmp := v, signalPresent := false
      missed := BitVec.ofNat 8 (min (s.missed.toNat + 1) 255), pwmL := 0, pwmR := 0, dirFwd := true
      dbuf := s.dbuf.writeAll 0 [0x00, 0x00, 0x01, 0x01]
      resp := (if armed then 0x00000002 else 0 : Word) ||| 0x01000000, busy := false, upc := .idle
      history := (scopeEvents [0x07, 0xFF] ++ [Event.wait (1000 * Config.rxCycleMs)]).reverse ++ s.history
      answers := v :: s1 :: s.answers, draws := s.draws + 2, time := s.time + Config.rxCycleMs }) ∨
    ∃ (s1 v s2 s3 d : Byte) (ds drained : List Byte) (b0 b1 b2 b3 : Byte), v.getLsbD 6 = true ∧
      ds.length = min 4 s.payloadSize.toNat ∧ ds.length + drained.length = s.payloadSize.toNat ∧
      (∀ k b, k < 4 → (s.dbuf.writeAll 0 ds).read k = some b → [b0, b1, b2, b3][k]? = some b) ∧
      exec (.rxcycle a) s = .next { s with
        armed := armed, prevPressed := a.getLsbD 0, lastStatus := s3, tmp := v, signalPresent := true
        missed := 0, lastPkt := wordOfBytes b0 b1 b2 b3
        pwmL := motorLeft (Packet.decode b0 b1 b2 b3), pwmR := motorRight (Packet.decode b0 b1 b2 b3)
        dirFwd := decide (0 ≤ b1.toInt), dbuf := (s.dbuf.writeAll 0 ds).writeAll 0 [b0, b1, b2, b3]
        resp := (0x00000001 : Word) ||| (if armed then 0x00000002 else 0 : Word) |||
          (motorLeft (Packet.decode b0 b1 b2 b3)).setWidth 32 <<< 8 |||
          (motorRight (Packet.decode b0 b1 b2 b3)).setWidth 32 <<< 16 |||
          (if 0 ≤ b1.toInt then 0x01000000 else 0 : Word)
        busy := false, upc := .idle
        history := (scopeEvents [0x07, 0xFF] ++ scopeEvents (0x61 :: List.replicate s.payloadSize.toNat 0xFF) ++
          scopeEvents [0x27, 0x40] ++ [Event.wait (1000 * Config.rxCycleMs)]).reverse ++ s.history
        answers := d :: s3 :: ((ds ++ drained).reverse ++ s2 :: v :: s1 :: s.answers)
        draws := s.draws + (5 + s.payloadSize.toNat), time := s.time + Config.rxCycleMs }

/-- TXCYCLE: FRAME's packet in DBUF, sent as SEND sends four bytes, then the 20 ms wait; RESP is SEND's
(46_link_consumer.md R126). That it ends, and its clock values, rest on the model's clock, which grants 60_exceptions.md
R140, law 3 (log 4), and ends a SEND whose wait left no lawful read (log 5). What `cmdl`, `t0` and `tmp` hold after it is the model's
choice (log 28). -/
def Obligations.TxcycleResult : Prop :=
  ∀ (ax ay : BitVec 10) (trg sw : Bool) (s : State), s.quiet = true → s.init = true → s.csn = true →
    let packet : List Byte := [BitVec.ofInt 8 (deadzone (Config.axisMap ax)),
      BitVec.ofInt 8 (deadzone (Config.axisMap ay)), if sw then 0 else 1, if trg then 0 else 1]
    ∃ (s1 v : Byte) (pay : List Byte) (start : Nat) (misses : List Poll) (last : Poll) (o : SendOutcome) (st : Byte)
      (tail : List Byte) (d t : Nat),
      s.time ≤ start ∧ start ≤ t ∧ s.draws ≤ d ∧ misses.all (Poll.missed (BitVec.ofNat 32 start)) = true ∧
      last.ends (BitVec.ofNat 32 start) o = true ∧ pay.length = 3 + s.payloadSize.toNat ∧
      tail.length = o.endLength ∧ tail[o.statusIndex]? = some st ∧
      exec (.txcycle ax ay trg sw) s = .next { s with
        dbuf := s.dbuf.writeAll 0 packet
        ce := false, mode := .idle, lastStatus := st, tmp := last.value, t0 := BitVec.ofNat 32 start
        lastSendOk := o == .ack, linkLed := o == .ack
        resp := match o with | .ack => 0x00000001 | .nack => 0x00000100 | .timeout => 0x00000200
        busy := false, upc := .idle
        history := (sendEvents v (packet.take (min 4 s.payloadSize.toNat) ++
          List.replicate (s.payloadSize.toNat - 4) 0x00) (BitVec.ofNat 32 start) misses last o ++
            [Event.wait 20000]).reverse ++ s.history
        answers := (s1 :: v :: pay ++ misses.flatMap Poll.answers ++ last.answers ++ tail).reverse ++ s.answers
        draws := d, time := t + 20 }

/-! ### SPI command bytes -/

/-- The five SPI command bytes, each sent on its own: one exchange, whose answer is the status kept in LAST_STATUS
(30_encoding.md R68, 42_register_access.md R81; running one alone is the model's, log 13). What `cmdl`, `t0` and `tmp`
hold after it is the model's choice (log 28). -/
def Obligations.SpiByteResult : Prop :=
  ∀ s : State, s.quiet = true →
    ∀ p ∈ [(Instr.spiRRxPayload, (0x61 : Byte)), (.spiWTxPayload, 0xA0), (.spiFlushTx, 0xE1)] ++
      (List.range 32).flatMap fun r =>
        [(Instr.spiRRegister (BitVec.ofNat 8 r), BitVec.ofNat 8 r), (.spiWRegister (BitVec.ofNat 8 r), BitVec.ofNat 8 (32 + r))],
      ∃ st : Byte, exec p.1 s = .next { s with
        lastStatus := st, busy := false, upc := .idle, history := .xfer p.2 :: s.history
        answers := st :: s.answers, draws := s.draws + 1 }
end

