-- ==== Sys2Proof/Laws/Clock.lean ====
section
/-! SUPPORT. The clock obeys the laws of 60_exceptions.md R140. -/

namespace Sys2Proof.Machine

/-- Laws 1 and 4: a read shows no time before the least one allowed. -/
theorem State.le_freeTime (s : State) : s.time ≤ s.freeTime := Nat.le_add_right _ _

/-- Laws 1 and 4 in SEND's loop. -/
theorem State.le_pollTime (s : State) (start : Nat) (last : Bool) : s.time ≤ s.pollTime start last := by
  unfold State.pollTime
  split
  · exact Nat.le_max_left _ _
  · exact Nat.le_add_right _ _

/-- Law 2: a read in SEND's loop is less than 2^32 ms after `t0`, where a time that law 4 allows is. -/
theorem State.pollTime_lt {s : State} {start : Nat} (h : s.time < start + 2 ^ 32) (last : Bool) :
    s.pollTime start last < start + 2 ^ 32 := by
  rw [State.pollTime, if_pos h]
  omega

/-- Laws 1 and 2: the wrapping difference is the true elapsed time. -/
theorem elapsed_eq {start t : Nat} (h : start ≤ t) (hlt : t < start + 2 ^ 32) :
    (BitVec.ofNat 32 t - BitVec.ofNat 32 start).toNat = t - start := by
  rw [BitVec.toNat_sub, BitVec.toNat_ofNat, BitVec.toNat_ofNat]
  omega

/-- Where no time obeys both law 2 and law 4, the read ends the SEND (log 5). -/
theorem State.deadlinePassed_late {s : State} {start : Nat} (h : start + 2 ^ 32 ≤ s.time) (last : Bool) :
    deadlinePassed (BitVec.ofNat 32 (s.pollTime start last)) (BitVec.ofNat 32 start) = true := by
  rw [State.pollTime, if_neg (Nat.not_lt.2 h)]
  simp only [deadlinePassed, decide_eq_true_eq, BitVec.toNat_sub, BitVec.toNat_ofNat, Config.sendTimeoutMs]
  omega

/-- Law 3: in the last iteration that fairness grants, the deadline has passed. -/
theorem State.deadlinePassed_last (s : State) (start : Nat) :
    deadlinePassed (BitVec.ofNat 32 (s.pollTime start true)) (BitVec.ofNat 32 start) = true := by
  rcases Nat.lt_or_ge s.time (start + 2 ^ 32) with h | h
  · have h1 : start + 50 ≤ s.pollTime start true := by
      simp only [State.pollTime, h, if_true, Config.sendTimeoutMs]; omega
    simp only [deadlinePassed, decide_eq_true_eq, elapsed_eq (by omega : start ≤ _) (State.pollTime_lt h true),
      Config.sendTimeoutMs]
    omega
  · exact State.deadlinePassed_late h true

end Sys2Proof.Machine
end

