-- ==== Sys2Proof/Laws/State.lean ====
section
/-! SUPPORT. What each named update of the state leaves of each field, true by rfl, for simp. -/

namespace Sys2Proof.Machine

variable (s : State)

/-! ### An exchange -/

@[simp] theorem State.exchange_cmd (b : Byte) : (s.exchange b).cmd = s.cmd := rfl
@[simp] theorem State.exchange_resp (b : Byte) : (s.exchange b).resp = s.resp := rfl
@[simp] theorem State.exchange_mode (b : Byte) : (s.exchange b).mode = s.mode := rfl
@[simp] theorem State.exchange_init (b : Byte) : (s.exchange b).init = s.init := rfl
@[simp] theorem State.exchange_busy (b : Byte) : (s.exchange b).busy = s.busy := rfl
@[simp] theorem State.exchange_csn (b : Byte) : (s.exchange b).csn = s.csn := rfl
@[simp] theorem State.exchange_ce (b : Byte) : (s.exchange b).ce = s.ce := rfl
@[simp] theorem State.exchange_pinsDriven (b : Byte) : (s.exchange b).pinsDriven = s.pinsDriven := rfl
@[simp] theorem State.exchange_lastSendOk (b : Byte) : (s.exchange b).lastSendOk = s.lastSendOk := rfl
@[simp] theorem State.exchange_signalPresent (b : Byte) : (s.exchange b).signalPresent = s.signalPresent := rfl
@[simp] theorem State.exchange_armed (b : Byte) : (s.exchange b).armed = s.armed := rfl
@[simp] theorem State.exchange_prevPressed (b : Byte) : (s.exchange b).prevPressed = s.prevPressed := rfl
@[simp] theorem State.exchange_fIllegal (b : Byte) : (s.exchange b).fIllegal = s.fIllegal := rfl
@[simp] theorem State.exchange_fNotInit (b : Byte) : (s.exchange b).fNotInit = s.fNotInit := rfl
@[simp] theorem State.exchange_fUndefData (b : Byte) : (s.exchange b).fUndefData = s.fUndefData := rfl
@[simp] theorem State.exchange_fBusOpen (b : Byte) : (s.exchange b).fBusOpen = s.fBusOpen := rfl
@[simp] theorem State.exchange_lastStatus (b : Byte) : (s.exchange b).lastStatus = s.lastStatus := rfl
@[simp] theorem State.exchange_payloadSize (b : Byte) : (s.exchange b).payloadSize = s.payloadSize := rfl
@[simp] theorem State.exchange_lastPkt (b : Byte) : (s.exchange b).lastPkt = s.lastPkt := rfl
@[simp] theorem State.exchange_pwmL (b : Byte) : (s.exchange b).pwmL = s.pwmL := rfl
@[simp] theorem State.exchange_pwmR (b : Byte) : (s.exchange b).pwmR = s.pwmR := rfl
@[simp] theorem State.exchange_dirFwd (b : Byte) : (s.exchange b).dirFwd = s.dirFwd := rfl
@[simp] theorem State.exchange_linkLed (b : Byte) : (s.exchange b).linkLed = s.linkLed := rfl
@[simp] theorem State.exchange_missed (b : Byte) : (s.exchange b).missed = s.missed := rfl
@[simp] theorem State.exchange_dbuf (b : Byte) : (s.exchange b).dbuf = s.dbuf := rfl
@[simp] theorem State.exchange_cmdl (b : Byte) : (s.exchange b).cmdl = s.cmdl := rfl
@[simp] theorem State.exchange_upc (b : Byte) : (s.exchange b).upc = s.upc := rfl
@[simp] theorem State.exchange_t0 (b : Byte) : (s.exchange b).t0 = s.t0 := rfl
@[simp] theorem State.exchange_tmp (b : Byte) : (s.exchange b).tmp = s.tmp := rfl
@[simp] theorem State.exchange_history (b : Byte) : (s.exchange b).history = .xfer b :: s.history := rfl
@[simp] theorem State.exchange_answers (b : Byte) : (s.exchange b).answers = s.miso b :: s.answers := rfl
@[simp] theorem State.exchange_draws (b : Byte) : (s.exchange b).draws = s.draws + 1 := rfl
@[simp] theorem State.exchange_time (b : Byte) : (s.exchange b).time = s.time := rfl
@[simp] theorem State.exchange_inputs (b : Byte) : (s.exchange b).inputs = s.inputs := rfl
@[simp] theorem State.exchange_reads (b : Byte) : (s.exchange b).reads = s.reads := rfl

/-! ### The start of a command -/

@[simp] theorem State.start_cmd : (s.start).cmd = s.cmd := rfl
@[simp] theorem State.start_resp : (s.start).resp = s.resp := rfl
@[simp] theorem State.start_mode : (s.start).mode = s.mode := rfl
@[simp] theorem State.start_init : (s.start).init = s.init := rfl
@[simp] theorem State.start_busy : (s.start).busy = true := rfl
@[simp] theorem State.start_csn : (s.start).csn = s.csn := rfl
@[simp] theorem State.start_ce : (s.start).ce = s.ce := rfl
@[simp] theorem State.start_pinsDriven : (s.start).pinsDriven = s.pinsDriven := rfl
@[simp] theorem State.start_lastSendOk : (s.start).lastSendOk = s.lastSendOk := rfl
@[simp] theorem State.start_signalPresent : (s.start).signalPresent = s.signalPresent := rfl
@[simp] theorem State.start_armed : (s.start).armed = s.armed := rfl
@[simp] theorem State.start_prevPressed : (s.start).prevPressed = s.prevPressed := rfl
@[simp] theorem State.start_fIllegal : (s.start).fIllegal = s.fIllegal := rfl
@[simp] theorem State.start_fNotInit : (s.start).fNotInit = s.fNotInit := rfl
@[simp] theorem State.start_fUndefData : (s.start).fUndefData = s.fUndefData := rfl
@[simp] theorem State.start_fBusOpen : (s.start).fBusOpen = s.fBusOpen := rfl
@[simp] theorem State.start_lastStatus : (s.start).lastStatus = s.lastStatus := rfl
@[simp] theorem State.start_payloadSize : (s.start).payloadSize = s.payloadSize := rfl
@[simp] theorem State.start_lastPkt : (s.start).lastPkt = s.lastPkt := rfl
@[simp] theorem State.start_pwmL : (s.start).pwmL = s.pwmL := rfl
@[simp] theorem State.start_pwmR : (s.start).pwmR = s.pwmR := rfl
@[simp] theorem State.start_dirFwd : (s.start).dirFwd = s.dirFwd := rfl
@[simp] theorem State.start_linkLed : (s.start).linkLed = s.linkLed := rfl
@[simp] theorem State.start_missed : (s.start).missed = s.missed := rfl
@[simp] theorem State.start_dbuf : (s.start).dbuf = s.dbuf := rfl
@[simp] theorem State.start_cmdl : (s.start).cmdl = s.cmdl := rfl
@[simp] theorem State.start_upc : (s.start).upc = .step 0 := rfl
@[simp] theorem State.start_t0 : (s.start).t0 = s.t0 := rfl
@[simp] theorem State.start_tmp : (s.start).tmp = s.tmp := rfl
@[simp] theorem State.start_history : (s.start).history = s.history := rfl
@[simp] theorem State.start_answers : (s.start).answers = s.answers := rfl
@[simp] theorem State.start_draws : (s.start).draws = s.draws := rfl
@[simp] theorem State.start_time : (s.start).time = s.time := rfl
@[simp] theorem State.start_inputs : (s.start).inputs = s.inputs := rfl
@[simp] theorem State.start_reads : (s.start).reads = s.reads := rfl

/-! ### A clock read -/

@[simp] theorem State.clockRead_cmd (t : Nat) : (s.clockRead t).cmd = s.cmd := rfl
@[simp] theorem State.clockRead_resp (t : Nat) : (s.clockRead t).resp = s.resp := rfl
@[simp] theorem State.clockRead_mode (t : Nat) : (s.clockRead t).mode = s.mode := rfl
@[simp] theorem State.clockRead_init (t : Nat) : (s.clockRead t).init = s.init := rfl
@[simp] theorem State.clockRead_busy (t : Nat) : (s.clockRead t).busy = s.busy := rfl
@[simp] theorem State.clockRead_csn (t : Nat) : (s.clockRead t).csn = s.csn := rfl
@[simp] theorem State.clockRead_ce (t : Nat) : (s.clockRead t).ce = s.ce := rfl
@[simp] theorem State.clockRead_pinsDriven (t : Nat) : (s.clockRead t).pinsDriven = s.pinsDriven := rfl
@[simp] theorem State.clockRead_lastSendOk (t : Nat) : (s.clockRead t).lastSendOk = s.lastSendOk := rfl
@[simp] theorem State.clockRead_signalPresent (t : Nat) : (s.clockRead t).signalPresent = s.signalPresent := rfl
@[simp] theorem State.clockRead_armed (t : Nat) : (s.clockRead t).armed = s.armed := rfl
@[simp] theorem State.clockRead_prevPressed (t : Nat) : (s.clockRead t).prevPressed = s.prevPressed := rfl
@[simp] theorem State.clockRead_fIllegal (t : Nat) : (s.clockRead t).fIllegal = s.fIllegal := rfl
@[simp] theorem State.clockRead_fNotInit (t : Nat) : (s.clockRead t).fNotInit = s.fNotInit := rfl
@[simp] theorem State.clockRead_fUndefData (t : Nat) : (s.clockRead t).fUndefData = s.fUndefData := rfl
@[simp] theorem State.clockRead_fBusOpen (t : Nat) : (s.clockRead t).fBusOpen = s.fBusOpen := rfl
@[simp] theorem State.clockRead_lastStatus (t : Nat) : (s.clockRead t).lastStatus = s.lastStatus := rfl
@[simp] theorem State.clockRead_payloadSize (t : Nat) : (s.clockRead t).payloadSize = s.payloadSize := rfl
@[simp] theorem State.clockRead_lastPkt (t : Nat) : (s.clockRead t).lastPkt = s.lastPkt := rfl
@[simp] theorem State.clockRead_pwmL (t : Nat) : (s.clockRead t).pwmL = s.pwmL := rfl
@[simp] theorem State.clockRead_pwmR (t : Nat) : (s.clockRead t).pwmR = s.pwmR := rfl
@[simp] theorem State.clockRead_dirFwd (t : Nat) : (s.clockRead t).dirFwd = s.dirFwd := rfl
@[simp] theorem State.clockRead_linkLed (t : Nat) : (s.clockRead t).linkLed = s.linkLed := rfl
@[simp] theorem State.clockRead_missed (t : Nat) : (s.clockRead t).missed = s.missed := rfl
@[simp] theorem State.clockRead_dbuf (t : Nat) : (s.clockRead t).dbuf = s.dbuf := rfl
@[simp] theorem State.clockRead_cmdl (t : Nat) : (s.clockRead t).cmdl = s.cmdl := rfl
@[simp] theorem State.clockRead_upc (t : Nat) : (s.clockRead t).upc = s.upc := rfl
@[simp] theorem State.clockRead_t0 (t : Nat) : (s.clockRead t).t0 = s.t0 := rfl
@[simp] theorem State.clockRead_tmp (t : Nat) : (s.clockRead t).tmp = s.tmp := rfl
@[simp] theorem State.clockRead_history (t : Nat) : (s.clockRead t).history = .now (BitVec.ofNat 32 t) :: s.history := rfl
@[simp] theorem State.clockRead_answers (t : Nat) : (s.clockRead t).answers = s.answers := rfl
@[simp] theorem State.clockRead_draws (t : Nat) : (s.clockRead t).draws = s.draws + 1 := rfl
@[simp] theorem State.clockRead_time (t : Nat) : (s.clockRead t).time = t := rfl
@[simp] theorem State.clockRead_inputs (t : Nat) : (s.clockRead t).inputs = s.inputs := rfl
@[simp] theorem State.clockRead_reads (t : Nat) : (s.clockRead t).reads = s.reads := rfl

/-! ### A write of CMD -/

@[simp] theorem State.latchCommand_cmd (w : Word) : (s.latchCommand w).cmd = w := rfl
@[simp] theorem State.latchCommand_resp (w : Word) : (s.latchCommand w).resp = s.resp := rfl
@[simp] theorem State.latchCommand_mode (w : Word) : (s.latchCommand w).mode = s.mode := rfl
@[simp] theorem State.latchCommand_init (w : Word) : (s.latchCommand w).init = s.init := rfl
@[simp] theorem State.latchCommand_busy (w : Word) : (s.latchCommand w).busy = true := rfl
@[simp] theorem State.latchCommand_csn (w : Word) : (s.latchCommand w).csn = s.csn := rfl
@[simp] theorem State.latchCommand_ce (w : Word) : (s.latchCommand w).ce = s.ce := rfl
@[simp] theorem State.latchCommand_pinsDriven (w : Word) : (s.latchCommand w).pinsDriven = s.pinsDriven := rfl
@[simp] theorem State.latchCommand_lastSendOk (w : Word) : (s.latchCommand w).lastSendOk = s.lastSendOk := rfl
@[simp] theorem State.latchCommand_signalPresent (w : Word) : (s.latchCommand w).signalPresent = s.signalPresent := rfl
@[simp] theorem State.latchCommand_armed (w : Word) : (s.latchCommand w).armed = s.armed := rfl
@[simp] theorem State.latchCommand_prevPressed (w : Word) : (s.latchCommand w).prevPressed = s.prevPressed := rfl
@[simp] theorem State.latchCommand_fIllegal (w : Word) : (s.latchCommand w).fIllegal = s.fIllegal := rfl
@[simp] theorem State.latchCommand_fNotInit (w : Word) : (s.latchCommand w).fNotInit = s.fNotInit := rfl
@[simp] theorem State.latchCommand_fUndefData (w : Word) : (s.latchCommand w).fUndefData = s.fUndefData := rfl
@[simp] theorem State.latchCommand_fBusOpen (w : Word) : (s.latchCommand w).fBusOpen = s.fBusOpen := rfl
@[simp] theorem State.latchCommand_lastStatus (w : Word) : (s.latchCommand w).lastStatus = s.lastStatus := rfl
@[simp] theorem State.latchCommand_payloadSize (w : Word) : (s.latchCommand w).payloadSize = s.payloadSize := rfl
@[simp] theorem State.latchCommand_lastPkt (w : Word) : (s.latchCommand w).lastPkt = s.lastPkt := rfl
@[simp] theorem State.latchCommand_pwmL (w : Word) : (s.latchCommand w).pwmL = s.pwmL := rfl
@[simp] theorem State.latchCommand_pwmR (w : Word) : (s.latchCommand w).pwmR = s.pwmR := rfl
@[simp] theorem State.latchCommand_dirFwd (w : Word) : (s.latchCommand w).dirFwd = s.dirFwd := rfl
@[simp] theorem State.latchCommand_linkLed (w : Word) : (s.latchCommand w).linkLed = s.linkLed := rfl
@[simp] theorem State.latchCommand_missed (w : Word) : (s.latchCommand w).missed = s.missed := rfl
@[simp] theorem State.latchCommand_dbuf (w : Word) : (s.latchCommand w).dbuf = s.dbuf := rfl
@[simp] theorem State.latchCommand_cmdl (w : Word) : (s.latchCommand w).cmdl = w := rfl
@[simp] theorem State.latchCommand_upc (w : Word) : (s.latchCommand w).upc = .step 0 := rfl
@[simp] theorem State.latchCommand_t0 (w : Word) : (s.latchCommand w).t0 = s.t0 := rfl
@[simp] theorem State.latchCommand_tmp (w : Word) : (s.latchCommand w).tmp = s.tmp := rfl
@[simp] theorem State.latchCommand_history (w : Word) : (s.latchCommand w).history = s.history := rfl
@[simp] theorem State.latchCommand_answers (w : Word) : (s.latchCommand w).answers = s.answers := rfl
@[simp] theorem State.latchCommand_draws (w : Word) : (s.latchCommand w).draws = s.draws := rfl
@[simp] theorem State.latchCommand_time (w : Word) : (s.latchCommand w).time = s.time := rfl
@[simp] theorem State.latchCommand_inputs (w : Word) : (s.latchCommand w).inputs = s.inputs := rfl
@[simp] theorem State.latchCommand_reads (w : Word) : (s.latchCommand w).reads = s.reads := rfl

/-! ### The reset input -/

@[simp] theorem State.resetInput_cmd : (s.resetInput).cmd = State.reset.cmd := rfl
@[simp] theorem State.resetInput_resp : (s.resetInput).resp = State.reset.resp := rfl
@[simp] theorem State.resetInput_mode : (s.resetInput).mode = State.reset.mode := rfl
@[simp] theorem State.resetInput_init : (s.resetInput).init = State.reset.init := rfl
@[simp] theorem State.resetInput_busy : (s.resetInput).busy = State.reset.busy := rfl
@[simp] theorem State.resetInput_csn : (s.resetInput).csn = State.reset.csn := rfl
@[simp] theorem State.resetInput_ce : (s.resetInput).ce = State.reset.ce := rfl
@[simp] theorem State.resetInput_pinsDriven : (s.resetInput).pinsDriven = State.reset.pinsDriven := rfl
@[simp] theorem State.resetInput_lastSendOk : (s.resetInput).lastSendOk = State.reset.lastSendOk := rfl
@[simp] theorem State.resetInput_signalPresent : (s.resetInput).signalPresent = State.reset.signalPresent := rfl
@[simp] theorem State.resetInput_armed : (s.resetInput).armed = State.reset.armed := rfl
@[simp] theorem State.resetInput_prevPressed : (s.resetInput).prevPressed = State.reset.prevPressed := rfl
@[simp] theorem State.resetInput_fIllegal : (s.resetInput).fIllegal = State.reset.fIllegal := rfl
@[simp] theorem State.resetInput_fNotInit : (s.resetInput).fNotInit = State.reset.fNotInit := rfl
@[simp] theorem State.resetInput_fUndefData : (s.resetInput).fUndefData = State.reset.fUndefData := rfl
@[simp] theorem State.resetInput_fBusOpen : (s.resetInput).fBusOpen = State.reset.fBusOpen := rfl
@[simp] theorem State.resetInput_lastStatus : (s.resetInput).lastStatus = State.reset.lastStatus := rfl
@[simp] theorem State.resetInput_payloadSize : (s.resetInput).payloadSize = State.reset.payloadSize := rfl
@[simp] theorem State.resetInput_lastPkt : (s.resetInput).lastPkt = State.reset.lastPkt := rfl
@[simp] theorem State.resetInput_pwmL : (s.resetInput).pwmL = State.reset.pwmL := rfl
@[simp] theorem State.resetInput_pwmR : (s.resetInput).pwmR = State.reset.pwmR := rfl
@[simp] theorem State.resetInput_dirFwd : (s.resetInput).dirFwd = State.reset.dirFwd := rfl
@[simp] theorem State.resetInput_linkLed : (s.resetInput).linkLed = State.reset.linkLed := rfl
@[simp] theorem State.resetInput_missed : (s.resetInput).missed = State.reset.missed := rfl
@[simp] theorem State.resetInput_dbuf : (s.resetInput).dbuf = State.reset.dbuf := rfl
@[simp] theorem State.resetInput_cmdl : (s.resetInput).cmdl = State.reset.cmdl := rfl
@[simp] theorem State.resetInput_upc : (s.resetInput).upc = State.reset.upc := rfl
@[simp] theorem State.resetInput_t0 : (s.resetInput).t0 = State.reset.t0 := rfl
@[simp] theorem State.resetInput_tmp : (s.resetInput).tmp = State.reset.tmp := rfl
@[simp] theorem State.resetInput_history : (s.resetInput).history = .reset :: s.history := rfl
@[simp] theorem State.resetInput_answers : (s.resetInput).answers = s.answers := rfl
@[simp] theorem State.resetInput_draws : (s.resetInput).draws = s.draws := rfl
@[simp] theorem State.resetInput_time : (s.resetInput).time = s.time := rfl
@[simp] theorem State.resetInput_inputs : (s.resetInput).inputs = s.inputs := rfl
@[simp] theorem State.resetInput_reads : (s.resetInput).reads = s.reads := rfl

/-! ### The fault action -/

@[simp] theorem State.setFaultBit_cmd (c : FaultCode) : (s.setFaultBit c).cmd = s.cmd := by cases c <;> rfl
@[simp] theorem State.setFaultBit_resp (c : FaultCode) : (s.setFaultBit c).resp = s.resp := by cases c <;> rfl
@[simp] theorem State.setFaultBit_mode (c : FaultCode) : (s.setFaultBit c).mode = s.mode := by cases c <;> rfl
@[simp] theorem State.setFaultBit_init (c : FaultCode) : (s.setFaultBit c).init = s.init := by cases c <;> rfl
@[simp] theorem State.setFaultBit_busy (c : FaultCode) : (s.setFaultBit c).busy = s.busy := by cases c <;> rfl
@[simp] theorem State.setFaultBit_csn (c : FaultCode) : (s.setFaultBit c).csn = s.csn := by cases c <;> rfl
@[simp] theorem State.setFaultBit_ce (c : FaultCode) : (s.setFaultBit c).ce = s.ce := by cases c <;> rfl
@[simp] theorem State.setFaultBit_pinsDriven (c : FaultCode) : (s.setFaultBit c).pinsDriven = s.pinsDriven := by cases c <;> rfl
@[simp] theorem State.setFaultBit_lastSendOk (c : FaultCode) : (s.setFaultBit c).lastSendOk = s.lastSendOk := by cases c <;> rfl
@[simp] theorem State.setFaultBit_signalPresent (c : FaultCode) : (s.setFaultBit c).signalPresent = s.signalPresent := by cases c <;> rfl
@[simp] theorem State.setFaultBit_armed (c : FaultCode) : (s.setFaultBit c).armed = s.armed := by cases c <;> rfl
@[simp] theorem State.setFaultBit_prevPressed (c : FaultCode) : (s.setFaultBit c).prevPressed = s.prevPressed := by cases c <;> rfl
@[simp] theorem State.setFaultBit_lastStatus (c : FaultCode) : (s.setFaultBit c).lastStatus = s.lastStatus := by cases c <;> rfl
@[simp] theorem State.setFaultBit_payloadSize (c : FaultCode) : (s.setFaultBit c).payloadSize = s.payloadSize := by cases c <;> rfl
@[simp] theorem State.setFaultBit_lastPkt (c : FaultCode) : (s.setFaultBit c).lastPkt = s.lastPkt := by cases c <;> rfl
@[simp] theorem State.setFaultBit_pwmL (c : FaultCode) : (s.setFaultBit c).pwmL = s.pwmL := by cases c <;> rfl
@[simp] theorem State.setFaultBit_pwmR (c : FaultCode) : (s.setFaultBit c).pwmR = s.pwmR := by cases c <;> rfl
@[simp] theorem State.setFaultBit_dirFwd (c : FaultCode) : (s.setFaultBit c).dirFwd = s.dirFwd := by cases c <;> rfl
@[simp] theorem State.setFaultBit_linkLed (c : FaultCode) : (s.setFaultBit c).linkLed = s.linkLed := by cases c <;> rfl
@[simp] theorem State.setFaultBit_missed (c : FaultCode) : (s.setFaultBit c).missed = s.missed := by cases c <;> rfl
@[simp] theorem State.setFaultBit_dbuf (c : FaultCode) : (s.setFaultBit c).dbuf = s.dbuf := by cases c <;> rfl
@[simp] theorem State.setFaultBit_cmdl (c : FaultCode) : (s.setFaultBit c).cmdl = s.cmdl := by cases c <;> rfl
@[simp] theorem State.setFaultBit_upc (c : FaultCode) : (s.setFaultBit c).upc = s.upc := by cases c <;> rfl
@[simp] theorem State.setFaultBit_t0 (c : FaultCode) : (s.setFaultBit c).t0 = s.t0 := by cases c <;> rfl
@[simp] theorem State.setFaultBit_tmp (c : FaultCode) : (s.setFaultBit c).tmp = s.tmp := by cases c <;> rfl
@[simp] theorem State.setFaultBit_history (c : FaultCode) : (s.setFaultBit c).history = s.history := by cases c <;> rfl
@[simp] theorem State.setFaultBit_answers (c : FaultCode) : (s.setFaultBit c).answers = s.answers := by cases c <;> rfl
@[simp] theorem State.setFaultBit_draws (c : FaultCode) : (s.setFaultBit c).draws = s.draws := by cases c <;> rfl
@[simp] theorem State.setFaultBit_time (c : FaultCode) : (s.setFaultBit c).time = s.time := by cases c <;> rfl
@[simp] theorem State.setFaultBit_inputs (c : FaultCode) : (s.setFaultBit c).inputs = s.inputs := by cases c <;> rfl
@[simp] theorem State.setFaultBit_reads (c : FaultCode) : (s.setFaultBit c).reads = s.reads := by cases c <;> rfl

@[simp] theorem State.commandFault_cmd (c : FaultCode) : (s.commandFault c).cmd = s.cmd := by
  cases c <;> rfl
@[simp] theorem State.commandFault_resp (c : FaultCode) : (s.commandFault c).resp = 0x80000000 ||| c.code := rfl
@[simp] theorem State.commandFault_mode (c : FaultCode) : (s.commandFault c).mode = s.mode := by
  cases c <;> rfl
@[simp] theorem State.commandFault_init (c : FaultCode) : (s.commandFault c).init = s.init := by
  cases c <;> rfl
@[simp] theorem State.commandFault_busy (c : FaultCode) : (s.commandFault c).busy = false := rfl
@[simp] theorem State.commandFault_csn (c : FaultCode) : (s.commandFault c).csn = s.csn := by
  cases c <;> rfl
@[simp] theorem State.commandFault_ce (c : FaultCode) : (s.commandFault c).ce = s.ce := by
  cases c <;> rfl
@[simp] theorem State.commandFault_pinsDriven (c : FaultCode) : (s.commandFault c).pinsDriven = s.pinsDriven := by
  cases c <;> rfl
@[simp] theorem State.commandFault_lastSendOk (c : FaultCode) : (s.commandFault c).lastSendOk = s.lastSendOk := by
  cases c <;> rfl
@[simp] theorem State.commandFault_signalPresent (c : FaultCode) : (s.commandFault c).signalPresent = s.signalPresent := by
  cases c <;> rfl
@[simp] theorem State.commandFault_armed (c : FaultCode) : (s.commandFault c).armed = s.armed := by
  cases c <;> rfl
@[simp] theorem State.commandFault_prevPressed (c : FaultCode) : (s.commandFault c).prevPressed = s.prevPressed := by
  cases c <;> rfl
@[simp] theorem State.commandFault_fIllegal (c : FaultCode) :
    (s.commandFault c).fIllegal = (s.setFaultBit c).fIllegal := rfl
@[simp] theorem State.commandFault_fNotInit (c : FaultCode) :
    (s.commandFault c).fNotInit = (s.setFaultBit c).fNotInit := rfl
@[simp] theorem State.commandFault_fUndefData (c : FaultCode) :
    (s.commandFault c).fUndefData = (s.setFaultBit c).fUndefData := rfl
@[simp] theorem State.commandFault_fBusOpen (c : FaultCode) :
    (s.commandFault c).fBusOpen = (s.setFaultBit c).fBusOpen := rfl
@[simp] theorem State.commandFault_lastStatus (c : FaultCode) : (s.commandFault c).lastStatus = s.lastStatus := by
  cases c <;> rfl
@[simp] theorem State.commandFault_payloadSize (c : FaultCode) : (s.commandFault c).payloadSize = s.payloadSize := by
  cases c <;> rfl
@[simp] theorem State.commandFault_lastPkt (c : FaultCode) : (s.commandFault c).lastPkt = s.lastPkt := by
  cases c <;> rfl
@[simp] theorem State.commandFault_pwmL (c : FaultCode) : (s.commandFault c).pwmL = s.pwmL := by
  cases c <;> rfl
@[simp] theorem State.commandFault_pwmR (c : FaultCode) : (s.commandFault c).pwmR = s.pwmR := by
  cases c <;> rfl
@[simp] theorem State.commandFault_dirFwd (c : FaultCode) : (s.commandFault c).dirFwd = s.dirFwd := by
  cases c <;> rfl
@[simp] theorem State.commandFault_linkLed (c : FaultCode) : (s.commandFault c).linkLed = s.linkLed := by
  cases c <;> rfl
@[simp] theorem State.commandFault_missed (c : FaultCode) : (s.commandFault c).missed = s.missed := by
  cases c <;> rfl
@[simp] theorem State.commandFault_dbuf (c : FaultCode) : (s.commandFault c).dbuf = s.dbuf := by
  cases c <;> rfl
@[simp] theorem State.commandFault_cmdl (c : FaultCode) : (s.commandFault c).cmdl = s.cmdl := by
  cases c <;> rfl
@[simp] theorem State.commandFault_upc (c : FaultCode) : (s.commandFault c).upc = .idle := rfl
@[simp] theorem State.commandFault_t0 (c : FaultCode) : (s.commandFault c).t0 = s.t0 := by
  cases c <;> rfl
@[simp] theorem State.commandFault_tmp (c : FaultCode) : (s.commandFault c).tmp = s.tmp := by
  cases c <;> rfl
@[simp] theorem State.commandFault_history (c : FaultCode) : (s.commandFault c).history = s.history := by
  cases c <;> rfl
@[simp] theorem State.commandFault_answers (c : FaultCode) : (s.commandFault c).answers = s.answers := by
  cases c <;> rfl
@[simp] theorem State.commandFault_draws (c : FaultCode) : (s.commandFault c).draws = s.draws := by
  cases c <;> rfl
@[simp] theorem State.commandFault_time (c : FaultCode) : (s.commandFault c).time = s.time := by
  cases c <;> rfl
@[simp] theorem State.commandFault_inputs (c : FaultCode) : (s.commandFault c).inputs = s.inputs := by
  cases c <;> rfl
@[simp] theorem State.commandFault_reads (c : FaultCode) : (s.commandFault c).reads = s.reads := by
  cases c <;> rfl

end Sys2Proof.Machine
end

