-- ==== Sys2Proof/Laws/Boundary.lean ====
section
/-! SUPPORT. What can happen at the boundary after a sequencer step, said once: nothing but reads of BSTAT, or a reset. -/

namespace Sys2Proof.Machine

/-- A 32-bit read of BSTAT returns it and changes nothing (10_state.md R15, R21). -/
theorem State.hostAccess_bstat (s : State) :
    s.hostAccess (.read32 offsetBstat) = { s with reads := s.bstat :: s.reads } := rfl

theorem Action.landsWhileBusy_access {a : HostAccess} (h : (Action.access a).landsWhileBusy = true) :
    a = .read32 offsetBstat := by
  cases a <;> simp_all [Action.landsWhileBusy]

/-- BSTAT[3] is BUSY (10_state.md R21). -/
theorem State.bstat_busy (s : State) : s.bstat.getLsbD 3 = s.busy := by
  cases h : s.busy <;> simp [State.bstat, bit, zext, h]

/-- `made` is what reads of BSTAT returned that were made while a command ran, newest first: `l` were the coming
actions before them, `l'` are those after. -/
def Landed (made : List Word) (l l' : List Input) : Prop :=
  (∀ r ∈ made, r.getLsbD 3 = true) ∧
    l.map Input.act = List.replicate made.length (.access (.read32 offsetBstat)) ++ l'.map Input.act

theorem Landed.nil (l : List Input) : Landed [] l l := ⟨by simp, rfl⟩

theorem Landed.trans {made made' : List Word} {l l' l'' : List Input} (h : Landed made l l') (h' : Landed made' l' l'') :
    Landed (made' ++ made) l l'' := by
  refine ⟨fun r hr => ?_, ?_⟩
  · rcases List.mem_append.1 hr with hr | hr
    · exact h'.1 r hr
    · exact h.1 r hr
  · rw [h.2, h'.2, List.length_append, Nat.add_comm, ← List.replicate_append_replicate, List.append_assoc]

/-- Due actions are reads of BSTAT, up to the first reset if there is one. -/
theorem State.landDue_cases (l : List Input) (s : State) :
    (∃ ins made, State.landDue l s = { s with inputs := ins, reads := made ++ s.reads } ∧ ins <:+ l ∧
        (s.busy = true → Landed made l ins)) ∨
      ∃ ins rds, State.landDue l s = { s with inputs := ins, reads := rds }.resetInput ∧ ins <:+ l ∧
        ∃ i ∈ l, i.act = .reset := by
  induction l generalizing s with
  | nil => exact .inl ⟨[], [], rfl, List.suffix_refl _, fun _ => .nil _⟩
  | cons i rest ih =>
    unfold State.landDue
    split
    · rename_i hdue
      split
      · rename_i hact
        exact .inr ⟨rest, s.reads, rfl, List.suffix_cons _ _, i, List.mem_cons_self, hact⟩
      · rename_i a hact
        have ha : a = .read32 offsetBstat := by
          apply Action.landsWhileBusy_access
          simp only [Input.due, Bool.and_eq_true] at hdue
          rw [← hact]; exact hdue.1
        subst ha
        rw [State.hostAccess_bstat]
        rcases ih { s with reads := s.bstat :: s.reads } with ⟨ins, made, h, hs, hl⟩ | ⟨ins, rds, h, hs, j, hj, hr⟩
        · refine .inl ⟨ins, made ++ [s.bstat], by rw [h]; simp, hs.trans (List.suffix_cons _ _), fun hb => ?_⟩
          have hone : Landed [s.bstat] (i :: rest) rest := ⟨by simp [State.bstat_busy, hb], by simp [hact]⟩
          exact hone.trans (hl hb)
        · exact .inr ⟨ins, rds, h, hs.trans (List.suffix_cons _ _), j, List.mem_cons_of_mem _ hj, hr⟩
    · exact .inl ⟨i :: rest, [], rfl, List.suffix_refl _, fun _ => .nil _⟩

/-- A boundary changes only the coming actions and what the host has read, or it is a reset after such a change. -/
theorem State.boundary_cases (s : State) :
    (∃ ins made, s.boundary = { s with inputs := ins, reads := made ++ s.reads } ∧
        (s.busy = true → Landed made s.inputs ins)) ∨
      ((∃ i ∈ s.inputs, i.act = .reset) ∧
        ∃ ins rds, s.boundary = { s with inputs := ins, reads := rds }.resetInput) := by
  unfold State.boundary
  split
  · exact .inl ⟨s.inputs, [], rfl, fun _ => .nil _⟩
  · rename_i i rest hi
    split
    · rcases State.landDue_cases ({ i with after := i.after - 1 } :: rest) s with
        ⟨ins, made, h, -, hl⟩ | ⟨ins, rds, h, -, j, hj, hr⟩
      · exact .inl ⟨ins, made, h, fun hb => by rw [hi]; exact hl hb⟩
      · refine .inr ⟨?_, ins, rds, h⟩
        rw [hi]
        rcases List.mem_cons.1 hj with rfl | hj
        · exact ⟨i, List.mem_cons_self, hr⟩
        · exact ⟨j, List.mem_cons_of_mem _ hj, hr⟩
    · exact .inl ⟨s.inputs, [], rfl, fun _ => .nil _⟩

/-- What a boundary leaves to come was to come before it, up to its count of steps. -/
theorem State.boundary_noReset {s : State} (h : ∀ i ∈ s.inputs, i.act ≠ .reset) :
    ∃ ins rds, s.boundary = { s with inputs := ins, reads := rds } ∧ ∀ i ∈ ins, i.act ≠ .reset := by
  unfold State.boundary
  split
  · exact ⟨s.inputs, s.reads, rfl, h⟩
  · rename_i i rest hi
    split
    · have hl : ∀ j ∈ ({ i with after := i.after - 1 } :: rest : List Input), j.act ≠ .reset := by
        intro j hj
        rw [hi] at h
        rcases List.mem_cons.1 hj with rfl | hj
        · exact h i List.mem_cons_self
        · exact h j (List.mem_cons_of_mem _ hj)
      rcases State.landDue_cases ({ i with after := i.after - 1 } :: rest) s with
        ⟨ins, made, he, hs, -⟩ | ⟨ins, rds, -, -, j, hj, hr⟩
      · exact ⟨ins, made ++ s.reads, he, fun j hj => hl j (hs.subset hj)⟩
      · exact absurd hr (hl j hj)
    · exact ⟨s.inputs, s.reads, rfl, h⟩

/-- In a quiet state nothing happens at a boundary. -/
theorem State.boundary_quiet {s : State} (h : s.quiet = true) : s.boundary = s := by
  unfold State.quiet at h
  unfold State.boundary
  split <;> simp_all

/-- A step of the sequencer in a quiet state is its effect. -/
theorem State.tick_quiet {s : State} {f : State → State} (hb : s.busy = true) (hq : (f s).quiet = true) :
    s.tick f = (f s).counted := by
  simp only [State.tick, hb, if_true]
  exact State.boundary_quiet hq

/-- A read of BSTAT that comes right after a step of the sequencer is made there, and changes nothing else
(10_state.md R16). -/
theorem State.tick_bstat {s : State} {f : State → State} {rest : List Input} (hb : s.busy = true)
    (hi : (f s).inputs = ⟨1, .access (.read32 offsetBstat)⟩ :: rest) (hr : ∀ j, rest.head? = some j → j.due = false) :
    s.tick f = { (f s).counted with inputs := rest, reads := (f s).bstat :: (f s).reads } := by
  have hc : (f s).counted.inputs = ⟨1, .access (.read32 offsetBstat)⟩ :: rest := hi
  simp only [State.tick, hb, if_true, State.boundary, hc, Action.landsWhileBusy, decide_true, State.landDue, Input.due,
    Bool.true_and, State.hostAccess_bstat]
  cases rest with
  | nil => rfl
  | cons j rest => simp only [State.landDue, hr j rfl, Bool.false_eq_true, if_false]; rfl

/-- A read of BSTAT that comes later is one step nearer after a step of the sequencer (log 15). -/
theorem State.tick_later {s : State} {f : State → State} {n : Nat} {a : Action} {rest : List Input} (hb : s.busy = true)
    (ha : a.landsWhileBusy = true) (hi : (f s).inputs = ⟨n + 2, a⟩ :: rest) :
    s.tick f = { (f s).counted with inputs := ⟨n + 1, a⟩ :: rest } := by
  have hc : (f s).counted.inputs = ⟨n + 2, a⟩ :: rest := hi
  simp [State.tick, hb, State.boundary, hc, ha, State.landDue, Input.due]

/-- A reset that comes right after a step of the sequencer lands there (70_reset_and_hazards.md R148). -/
theorem State.tick_reset {s : State} {f : State → State} {n : Nat} {rest : List Input} (hb : s.busy = true) (hn : n ≤ 1)
    (hi : (f s).inputs = ⟨n, .reset⟩ :: rest) : s.tick f = State.resetInput { f s with inputs := rest } := by
  have hc : (f s).counted.inputs = ⟨n, .reset⟩ :: rest := hi
  have h0 : n - 1 = 0 := Nat.sub_eq_zero_of_le hn
  simp only [State.tick, hb, if_true, State.boundary, hc, Action.landsWhileBusy, h0, State.landDue, Input.due,
    Bool.true_and, decide_true]
  rfl

/-- A step of the sequencer does nothing while no command runs. -/
theorem State.tick_idle {s : State} {f : State → State} (hb : s.busy = false) : s.tick f = s := by
  simp [State.tick, hb]

theorem State.assign_busy {s : State} {f : State → State} (hb : s.busy = true) : s.assign f = f s := by
  simp [State.assign, hb]

theorem State.assign_idle {s : State} {f : State → State} (hb : s.busy = false) : s.assign f = s := by
  simp [State.assign, hb]

/-- What holds before a step of the sequencer holds after it, if the step's effect, reads of BSTAT, the counting of
steps and a reset all keep it. -/
theorem State.tick_keeps {P : State → Prop} (world : ∀ s ins rds, P s → P { s with inputs := ins, reads := rds })
    (reset : ∀ s : State, P s → P s.resetInput) (count : ∀ s : State, s.busy = true → P s → P s.counted)
    {f : State → State} (effect : ∀ s, s.busy = true → P s → P (f s) ∧ (f s).busy = true) {s : State} (h : P s) :
    P (s.tick f) := by
  cases hb : s.busy with
  | false => rwa [State.tick_idle hb]
  | true =>
    have hP : P (f s).counted := count _ (effect s hb h).2 (effect s hb h).1
    simp only [State.tick, hb, if_true]
    rcases State.boundary_cases (f s).counted with ⟨ins, made, he, -⟩ | ⟨-, ins, rds, he⟩
    · rw [he]; exact world _ _ _ hP
    · rw [he]; exact reset _ (world _ _ _ hP)

end Sys2Proof.Machine
end

