-- ==== Sys2Proof/Laws/Memory.lean ====
section
/-! SUPPORT. DBUF: read after write, and that every memory operation keeps the canonical form. -/

namespace Sys2Proof.Machine

theorem Memory.read_write (m : Memory) (i j : Nat) (v : Byte) :
    (m.write i v).read j = if i = j then some v else m.read j := by
  induction m with
  | nil => simp [Memory.write, Memory.read]
  | cons c m ih =>
    obtain ⟨k, b⟩ := c
    simp only [Memory.write]
    split
    · simp [Memory.read]
    · split
      · subst_vars; simp only [Memory.read]; split <;> simp_all
      · simp only [Memory.read, ih]
        by_cases h1 : k = j <;> by_cases h2 : i = j <;> simp_all

@[simp] theorem Memory.read_write_self (m : Memory) (i : Nat) (v : Byte) : (m.write i v).read i = some v := by
  simp [Memory.read_write]

theorem Memory.read_write_other (m : Memory) {i j : Nat} (v : Byte) (h : i ≠ j) :
    (m.write i v).read j = m.read j := by
  simp [Memory.read_write, h]

/-- Writing several bytes: byte `j` is the written one inside the range, and as before outside it. -/
theorem Memory.read_writeAll (m : Memory) (i j : Nat) (bs : List Byte) :
    (m.writeAll i bs).read j = if i ≤ j ∧ j < i + bs.length then bs[j - i]? else m.read j := by
  induction bs generalizing m i with
  | nil => simp only [Memory.writeAll, List.length_nil]; split <;> first | omega | rfl
  | cons b bs ih =>
    simp only [Memory.writeAll, ih, Memory.read_write, List.length_cons]
    by_cases h : i = j
    · subst h; simp
    · by_cases h2 : i + 1 ≤ j ∧ j < i + 1 + bs.length
      · have h3 : i ≤ j ∧ j < i + (bs.length + 1) := by omega
        have h4 : j - i = (j - (i + 1)) + 1 := by omega
        simp [h2, h3, h4]
      · have h3 : ¬(i ≤ j ∧ j < i + (bs.length + 1)) := by omega
        rw [if_neg h2, if_neg h3, if_neg h]

theorem Memory.wfFrom_mono {lo lo' : Nat} (h : lo' ≤ lo) {m : Memory} (hm : Memory.wfFrom lo m = true) :
    Memory.wfFrom lo' m = true := by
  cases m with
  | nil => rfl
  | cons c m => simp_all [Memory.wfFrom]; omega

theorem Memory.wfFrom_write {lo i : Nat} {m : Memory} (hm : Memory.wfFrom lo m = true) (hlo : lo ≤ i) (hi : i < 32)
    (v : Byte) : Memory.wfFrom lo (m.write i v) = true := by
  induction m generalizing lo with
  | nil => simp [Memory.write, Memory.wfFrom, hlo, hi]
  | cons c m ih =>
    obtain ⟨k, b⟩ := c
    simp only [Memory.wfFrom, Bool.and_eq_true, decide_eq_true_eq] at hm
    simp only [Memory.write]
    split
    · simp only [Memory.wfFrom, Bool.and_eq_true, decide_eq_true_eq]
      refine ⟨⟨hlo, hi⟩, ⟨?_, hm.1.2⟩, hm.2⟩; omega
    · split
      · subst_vars; simp [Memory.wfFrom, hlo, hi, hm.2]
      · simp only [Memory.wfFrom, Bool.and_eq_true, decide_eq_true_eq]
        exact ⟨hm.1, ih hm.2 (by omega)⟩

/-- A write inside DBUF keeps the canonical form. -/
theorem Memory.wf_write {m : Memory} (hm : m.wf = true) {i : Nat} (hi : i < 32) (v : Byte) : (m.write i v).wf = true :=
  Memory.wfFrom_write hm (Nat.zero_le i) hi v

/-- Writes inside DBUF keep the canonical form. -/
theorem Memory.wf_writeAll {m : Memory} (hm : m.wf = true) {i : Nat} (bs : List Byte) (hi : i + bs.length ≤ 32) :
    (m.writeAll i bs).wf = true := by
  induction bs generalizing m i with
  | nil => exact hm
  | cons b bs ih =>
    simp only [List.length_cons] at hi
    exact ih (Memory.wf_write hm (by omega) b) (by omega)

theorem Memory.wfFrom_read {lo : Nat} {m : Memory} (hm : Memory.wfFrom lo m = true) {i : Nat} (h : i < lo ∨ 32 ≤ i) :
    m.read i = none := by
  induction m generalizing lo with
  | nil => rfl
  | cons c m ih =>
    obtain ⟨k, b⟩ := c
    simp only [Memory.wfFrom, Bool.and_eq_true, decide_eq_true_eq] at hm
    have hk : k ≠ i := by omega
    simp only [Memory.read, hk, if_false]
    exact ih hm.2 (by omega)

/-- No byte beyond index 31 is ever valid (R17). -/
theorem Memory.read_outside {m : Memory} (hm : m.wf = true) {i : Nat} (hi : 32 ≤ i) : m.read i = none :=
  Memory.wfFrom_read hm (.inr hi)

/-- Canonical memories that read alike are equal. -/
theorem Memory.ext_of_wfFrom {lo : Nat} {m m' : Memory} (hm : Memory.wfFrom lo m = true)
    (hm' : Memory.wfFrom lo m' = true) (h : ∀ i, m.read i = m'.read i) : m = m' := by
  induction m generalizing lo m' with
  | nil =>
    cases m' with
    | nil => rfl
    | cons c m' => obtain ⟨k, b⟩ := c; simpa [Memory.read] using h k
  | cons c m ih =>
    obtain ⟨k, b⟩ := c
    cases m' with
    | nil => simpa [Memory.read] using h k
    | cons c' m' =>
      obtain ⟨k', b'⟩ := c'
      simp only [Memory.wfFrom, Bool.and_eq_true, decide_eq_true_eq] at hm hm'
      have hkk : k = k' := by
        rcases Nat.lt_trichotomy k k' with hlt | heq | hlt
        · have := h k
          have hne : k' ≠ k := by omega
          simp only [Memory.read, if_true, hne, if_false] at this
          rw [Memory.wfFrom_read hm'.2 (.inl (by omega))] at this
          simp at this
        · exact heq
        · have := h k'
          have hne : k ≠ k' := by omega
          simp only [Memory.read, if_true, hne, if_false] at this
          rw [Memory.wfFrom_read hm.2 (.inl (by omega))] at this
          simp at this
      subst hkk
      have hb : b = b' := by simpa [Memory.read] using h k
      subst hb
      congr 1
      refine ih hm.2 hm'.2 fun i => ?_
      by_cases hi : i = k
      · rw [Memory.wfFrom_read hm.2 (.inl (by omega)), Memory.wfFrom_read hm'.2 (.inl (by omega))]
      · have hne : k ≠ i := fun e => hi e.symm
        simpa [Memory.read, hne] using h i

theorem Memory.ext_of_wf {m m' : Memory} (hm : m.wf = true) (hm' : m'.wf = true) (h : ∀ i, m.read i = m'.read i) :
    m = m' :=
  Memory.ext_of_wfFrom hm hm' h

/-- `n` bytes are valid exactly when each of them is. -/
theorem Memory.validTo_iff (m : Memory) (n : Nat) : m.validTo n = true ↔ ∀ i < n, (m.read i).isSome = true := by
  simp [Memory.validTo]

end Sys2Proof.Machine
end

