-- ==== Sys2Proof/Laws/Ops.lean ====
section
/-! SUPPORT. What each shared operation does in a state where a command runs and no outside action lands in it, said
once: the fields it writes, the events it puts on the trace in order, and the answers it draws. -/

namespace Sys2Proof.Machine

/-- `s` after the events `evs` and the answers `ans` (both oldest first), with the clock's bound at `t` and the
sequencer at `u`. -/
def State.afterBus (s : State) (evs : List Event) (ans : List Byte) (t : Nat) (u : SeqPos) : State :=
  { s with
    history := evs.reverse ++ s.history
    answers := ans.reverse ++ s.answers
    draws := s.draws + ans.length
    time := t
    upc := u }

/-! ### The traces of the spec, in the machine's parameters -/

theorem scopeEvents_config (bytes : List Byte) : scopeEvents bytes =
    [.csn false, .wait Config.tCsnUs] ++ bytes.map .xfer ++ [.csn true, .wait Config.tCsnUs] := rfl

theorem rmwEvents_config (v set clear : Byte) : rmwEvents v set clear =
    readEvents Config.regConfig ++ writeEvents Config.regConfig ((v ||| set) &&& ~~~clear) := rfl

theorem stopListeningEvents_config (v : Byte) : stopListeningEvents v =
    [.ce false] ++ rmwEvents v 0x00 Config.configPrimRx ++ [.wait Config.tModeUs] := rfl

theorem payloadSizeEvents_config (size : Nat) : payloadSizeEvents size =
    (List.range Config.pipeCount).flatMap fun p => writeEvents (Config.regRxPw p) (BitVec.ofNat 8 size) := rfl

theorem powerUpEvents_config : powerUpEvents =
    [.ce false, .csn true, .wait Config.tCsnUs] ++ writeEvents Config.regConfig Config.configPowerUp ++
      [.wait Config.tPwrupUs] := rfl

theorem sendPrologueEvents_config (v : Byte) (payload : List Byte) (t0 : Word) : sendPrologueEvents v payload t0 =
    stopListeningEvents v ++ scopeEvents (Config.cmdWriteTxPayload :: payload) ++
      [.ce true, .wait Config.tCePulseUs, .ce false, .now t0] := rfl

/-- TX_DS is bit 5 (30_encoding.md R66). -/
theorem txDs_eq : ∀ v : Byte, txDs v = v.getLsbD 5 := by decide

/-- MAX_RT is bit 4 (30_encoding.md R66). -/
theorem maxRt_eq : ∀ v : Byte, maxRt v = v.getLsbD 4 := by decide

/-- RX_DR is bit 6 (30_encoding.md R66). -/
theorem rxDr_eq : ∀ v : Byte, rxDr v = v.getLsbD 6 := by decide

/-- A command runs, and no outside action lands in it. -/
def State.calm (s : State) : Prop := s.busy = true ∧ s.quiet = true

variable {s : State}

theorem State.calm_of {s t : State} (h : s.calm) (hb : t.busy = s.busy) (hi : t.inputs = s.inputs) : t.calm :=
  ⟨hb.trans h.1, by rw [State.quiet, hi]; exact h.2⟩

theorem State.calm_start (h : s.quiet = true) : s.start.calm := ⟨rfl, h⟩

/-- One step of a calm sequencer is its effect. -/
theorem State.tick_calm {f : State → State} (h : s.calm) (hi : (f s).inputs = s.inputs) :
    s.tick f = (f s).counted :=
  State.tick_quiet h.1 (by rw [State.quiet, hi]; exact h.2)

theorem State.assign_calm {f : State → State} (h : s.calm) : s.assign f = f s := State.assign_busy h.1

/-! ### Primitives -/

theorem State.wait_calm (h : s.calm) (us : Nat) :
    s.wait us = s.afterBus [.wait us] [] (s.time + us / 1000) s.upc.next :=
  State.tick_calm h rfl

theorem State.enable_calm (h : s.calm) (l : Bool) :
    s.enable l = { s with ce := l }.afterBus [.ce l] [] s.time s.upc.next :=
  State.tick_calm h rfl

theorem State.select_calm (h : s.calm) (active : Bool) :
    s.select active =
      { s with csn := !active }.afterBus [.csn (!active), .wait Config.tCsnUs] [] s.time s.upc.next.next := by
  have h1 : (s.tick fun s => { s with csn := !active, history := .csn (!active) :: s.history }) =
      { s with csn := !active }.afterBus [.csn (!active)] [] s.time s.upc.next := State.tick_calm h rfl
  have c1 : (s.tick fun s => { s with csn := !active, history := .csn (!active) :: s.history }).calm := by
    rw [h1]; exact State.calm_of h rfl rfl
  rw [State.select, State.wait_calm c1, h1]
  rfl

theorem State.putByte_calm (h : s.calm) (b : Byte) :
    s.putByte b = s.afterBus [.xfer b] [s.miso b] s.time s.upc.next :=
  State.tick_calm h rfl

theorem State.getTmp_calm (h : s.calm) (b : Byte) :
    s.getTmp b = { s with tmp := s.miso b }.afterBus [.xfer b] [s.miso b] s.time s.upc.next :=
  State.tick_calm h rfl

theorem State.getDbuf_calm (h : s.calm) (i : Nat) :
    s.getDbuf i = { s with dbuf := s.dbuf.write i (s.miso Config.dummyByte) }.afterBus
      [.xfer Config.dummyByte] [s.miso Config.dummyByte] s.time s.upc.next :=
  State.tick_calm h rfl

theorem State.commandByte_calm (h : s.calm) (b : Byte) :
    s.commandByte b = { s with lastStatus := s.miso b }.afterBus [.xfer b] [s.miso b] s.time s.upc.next :=
  State.tick_calm h rfl

theorem State.readT0_calm (h : s.calm) :
    s.readT0 = { s with t0 := BitVec.ofNat 32 s.freeTime, draws := s.draws + 1 }.afterBus
      [.now (BitVec.ofNat 32 s.freeTime)] [] s.freeTime s.upc.next :=
  State.tick_calm h rfl

theorem State.readPollClock_calm (h : s.calm) (start : Nat) (last : Bool) :
    s.readPollClock start last = { s with draws := s.draws + 1 }.afterBus
      [.now (BitVec.ofNat 32 (s.pollTime start last))] [] (s.pollTime start last) s.upc.next :=
  State.tick_calm h rfl

/-- Bytes sent: one exchange each, in order. -/
theorem State.putBytes_calm (h : s.calm) (bs : List Byte) :
    ∃ ds u, ds.length = bs.length ∧ s.putBytes bs = s.afterBus (bs.map .xfer) ds s.time u := by
  induction bs generalizing s with
  | nil => exact ⟨[], s.upc, rfl, rfl⟩
  | cons b bs ih =>
    obtain ⟨ds, u, hl, he⟩ := ih (State.calm_of (t := s.afterBus [.xfer b] [s.miso b] s.time s.upc.next) h rfl rfl)
    refine ⟨s.miso b :: ds, u, by simp [hl], ?_⟩
    rw [State.putBytes, State.putByte_calm h, he]
    simp [State.afterBus]
    omega

/-- Bytes received: one exchange each, in order, the answers into DBUF. -/
theorem State.getBytes_calm (h : s.calm) (n i : Nat) :
    ∃ ds u, ds.length = n ∧ s.getBytes n i =
      { s with dbuf := s.dbuf.writeAll i ds }.afterBus (List.replicate n (.xfer Config.dummyByte)) ds s.time u := by
  induction n generalizing s i with
  | zero => exact ⟨[], s.upc, rfl, rfl⟩
  | succ n ih =>
    have c : (s.getDbuf i).calm := by rw [State.getDbuf_calm h]; exact State.calm_of h rfl rfl
    obtain ⟨ds, u, hl, he⟩ := ih c (i + 1)
    refine ⟨s.miso Config.dummyByte :: ds, u, by simp [hl], ?_⟩
    rw [State.getBytes, he, State.getDbuf_calm h]
    simp [State.afterBus, List.replicate_succ, Memory.writeAll]
    omega

/-! ### Scopes -/

/-- A register write: one scope, the status byte kept. -/
theorem State.writeReg_calm (h : s.calm) (reg : Byte) (bytes : List Byte) :
    ∃ st ds u, ds.length = bytes.length ∧ s.writeReg reg bytes =
      { s with csn := true, lastStatus := st }.afterBus
        (scopeEvents (Config.cmdWriteRegister reg :: bytes)) (st :: ds) s.time u := by
  have c1 : (s.select true).calm := by rw [State.select_calm h]; exact State.calm_of h rfl rfl
  have c2 : ((s.select true).commandByte (Config.cmdWriteRegister reg)).calm := by
    rw [State.commandByte_calm c1]; exact State.calm_of c1 rfl rfl
  obtain ⟨ds, u, hl, h3⟩ := State.putBytes_calm c2 bytes
  have c3 : (((s.select true).commandByte (Config.cmdWriteRegister reg)).putBytes bytes).calm := by
    rw [h3]; exact State.calm_of c2 rfl rfl
  refine ⟨(s.select true).miso (Config.cmdWriteRegister reg), ds, u.next.next, hl, ?_⟩
  rw [State.writeReg, State.scope, State.select_calm c3, h3, State.commandByte_calm c1, State.select_calm h]
  simp [State.afterBus, scopeEvents_config]
  omega

/-- A one-byte register write. -/
theorem State.writeReg1_calm (h : s.calm) (reg v : Byte) :
    ∃ st d u, s.writeReg1 reg v =
      { s with csn := true, lastStatus := st }.afterBus (writeEvents reg v) [st, d] s.time u := by
  obtain ⟨st, ds, u, hl, he⟩ := State.writeReg_calm h reg [v]
  obtain ⟨d, rfl⟩ := List.length_eq_one_iff.1 hl
  exact ⟨st, d, u, he⟩

/-- A read of one register byte: one scope, the status byte kept, the data byte in `tmp`. -/
theorem State.readReg1_calm (h : s.calm) (reg : Byte) :
    ∃ st v u, s.readReg1 reg =
      { s with csn := true, lastStatus := st, tmp := v }.afterBus
        (readEvents reg) [st, v] s.time u := by
  have c1 : (s.select true).calm := by rw [State.select_calm h]; exact State.calm_of h rfl rfl
  have c2 : ((s.select true).commandByte (Config.cmdReadRegister reg)).calm := by
    rw [State.commandByte_calm c1]; exact State.calm_of c1 rfl rfl
  have c3 : (((s.select true).commandByte (Config.cmdReadRegister reg)).getTmp Config.dummyByte).calm := by
    rw [State.getTmp_calm c2]; exact State.calm_of c2 rfl rfl
  refine ⟨(s.select true).miso (Config.cmdReadRegister reg),
    ((s.select true).commandByte (Config.cmdReadRegister reg)).miso Config.dummyByte,
    s.upc.next.next.next.next.next.next, ?_⟩
  rw [State.readReg1, State.scope, State.select_calm c3, State.getTmp_calm c2, State.commandByte_calm c1,
    State.select_calm h]
  simp only [State.afterBus, readEvents, scopeEvents]
  rfl

/-- A flush: one scope of one byte. -/
theorem State.flushTx_calm (h : s.calm) :
    ∃ st u, s.flushTx =
      { s with csn := true, lastStatus := st }.afterBus flushEvents [st] s.time u := by
  have c1 : (s.select true).calm := by rw [State.select_calm h]; exact State.calm_of h rfl rfl
  have c2 : ((s.select true).commandByte Config.cmdFlushTx).calm := by
    rw [State.commandByte_calm c1]; exact State.calm_of c1 rfl rfl
  refine ⟨(s.select true).miso Config.cmdFlushTx, s.upc.next.next.next.next.next, ?_⟩
  rw [State.flushTx, State.scope, State.select_calm c2, State.commandByte_calm c1, State.select_calm h]
  rfl

/-- A register read of `n` bytes into DBUF (RREGB): one scope. -/
theorem State.readRegs_calm (h : s.calm) (reg : Byte) (n : Nat) :
    ∃ st ds u, ds.length = n ∧ (s.scope fun s => (s.commandByte (Config.cmdReadRegister reg)).getBytes n 0) =
      { s with csn := true, lastStatus := st, dbuf := s.dbuf.writeAll 0 ds }.afterBus
        (scopeEvents (Config.cmdReadRegister reg :: List.replicate n Config.dummyByte)) (st :: ds) s.time u := by
  have c1 : (s.select true).calm := by rw [State.select_calm h]; exact State.calm_of h rfl rfl
  have c2 : ((s.select true).commandByte (Config.cmdReadRegister reg)).calm := by
    rw [State.commandByte_calm c1]; exact State.calm_of c1 rfl rfl
  obtain ⟨ds, u, hl, h3⟩ := State.getBytes_calm c2 n 0
  have c3 : (((s.select true).commandByte (Config.cmdReadRegister reg)).getBytes n 0).calm := by
    rw [h3]; exact State.calm_of c2 rfl rfl
  refine ⟨(s.select true).miso (Config.cmdReadRegister reg), ds, u.next.next, hl, ?_⟩
  rw [State.scope, State.select_calm c3, h3, State.commandByte_calm c1, State.select_calm h]
  simp [State.afterBus, scopeEvents_config]
  omega

/-- A payload write: one scope, data then padding. -/
theorem State.writePayload_calm (h : s.calm) (c : Byte) (n : Nat) :
    ∃ st ds u, ds.length = s.dataLength n + s.blankLength n ∧ s.writePayload c n =
      { s with csn := true, lastStatus := st }.afterBus
        (scopeEvents (c :: (s.dbufBytes 0 (s.dataLength n) ++ List.replicate (s.blankLength n) Config.padByte)))
        (st :: ds) s.time u := by
  have c1 : (s.select true).calm := by rw [State.select_calm h]; exact State.calm_of h rfl rfl
  have c2 : ((s.select true).commandByte c).calm := by
    rw [State.commandByte_calm c1]; exact State.calm_of c1 rfl rfl
  obtain ⟨ds, u, hl, h3⟩ := State.putBytes_calm c2
    (s.dbufBytes 0 (s.dataLength n) ++ List.replicate (s.blankLength n) Config.padByte)
  have c3 : (((s.select true).commandByte c).putBytes
      (s.dbufBytes 0 (s.dataLength n) ++ List.replicate (s.blankLength n) Config.padByte)).calm := by
    rw [h3]; exact State.calm_of c2 rfl rfl
  refine ⟨(s.select true).miso c, ds, u.next.next, by simpa [State.dbufBytes] using hl, ?_⟩
  rw [State.writePayload, State.scope, State.select_calm c3, h3, State.commandByte_calm c1, State.select_calm h]
  simp [State.afterBus, scopeEvents_config]
  omega

/-- A payload read: one scope, data into DBUF, then the padding drained. -/
theorem State.readPayload_calm (h : s.calm) (n : Nat) :
    ∃ st ds drained u, ds.length = s.dataLength n ∧ drained.length = s.blankLength n ∧ s.readPayload n =
      { s with csn := true, lastStatus := st, dbuf := s.dbuf.writeAll 0 ds }.afterBus
        (scopeEvents (Config.cmdReadRxPayload ::
          List.replicate (s.dataLength n + s.blankLength n) Config.dummyByte))
        (st :: (ds ++ drained)) s.time u := by
  have c1 : (s.select true).calm := by rw [State.select_calm h]; exact State.calm_of h rfl rfl
  have c2 : ((s.select true).commandByte Config.cmdReadRxPayload).calm := by
    rw [State.commandByte_calm c1]; exact State.calm_of c1 rfl rfl
  obtain ⟨ds, u, hl, h3⟩ := State.getBytes_calm c2 (s.dataLength n) 0
  have c3 : (((s.select true).commandByte Config.cmdReadRxPayload).getBytes (s.dataLength n) 0).calm := by
    rw [h3]; exact State.calm_of c2 rfl rfl
  obtain ⟨dr, u', hl', h4⟩ := State.putBytes_calm c3 (List.replicate (s.blankLength n) Config.dummyByte)
  have c4 : ((((s.select true).commandByte Config.cmdReadRxPayload).getBytes (s.dataLength n) 0).putBytes
      (List.replicate (s.blankLength n) Config.dummyByte)).calm := by
    rw [h4]; exact State.calm_of c3 rfl rfl
  refine ⟨(s.select true).miso Config.cmdReadRxPayload, ds, dr, u'.next.next, hl, by simpa using hl', ?_⟩
  rw [State.readPayload, State.scope, State.select_calm c4, h4, h3, State.commandByte_calm c1, State.select_calm h]
  simp [State.afterBus, scopeEvents_config, ← List.replicate_append_replicate]
  omega

/-- A read-modify-write of CONFIG: two scopes, the second writing the byte the first drew, with only the named bits
changed. -/
theorem State.configRmw_calm (h : s.calm) (set clear : Byte) :
    ∃ s1 v s2 d u, s.configRmw set clear =
      { s with csn := true, lastStatus := s2, tmp := v }.afterBus
        (rmwEvents v set clear) [s1, v, s2, d] s.time u := by
  obtain ⟨s1, v, u, h1⟩ := State.readReg1_calm h Config.regConfig
  have c1 : (s.readReg1 Config.regConfig).calm := by rw [h1]; exact State.calm_of h rfl rfl
  have ht : (s.readReg1 Config.regConfig).tmp = v := by rw [h1]; rfl
  obtain ⟨s2, d, u2, h2⟩ := State.writeReg1_calm c1 Config.regConfig ((v ||| set) &&& ~~~clear)
  refine ⟨s1, v, s2, d, u2, ?_⟩
  simp only [State.configRmw, ht]
  rw [h2, h1]
  simp [State.afterBus, rmwEvents_config]

end Sys2Proof.Machine
end

