-- ==== Sys2Proof/Laws/Bodies.lean ====
section
/-! SUPPORT. What the longer bodies do in a calm state: stop listening, the payload size, the power-up, and SEND's
prologue and poll loop. -/

namespace Sys2Proof.Machine

variable {s : State}

/-- `StopListening()`: CE low, PRIM_RX cleared in the CONFIG value drawn, the settle wait, MODE Idle. -/
theorem State.stopListening_calm (h : s.calm) :
    ∃ s1 v s2 d u, s.stopListening =
      { s with csn := true, ce := false, mode := .idle, lastStatus := s2, tmp := v }.afterBus
        (stopListeningEvents v) [s1, v, s2, d] s.time u := by
  have c1 : (s.enable false).calm := by rw [State.enable_calm h]; exact State.calm_of h rfl rfl
  obtain ⟨s1, v, s2, d, u, h2⟩ := State.configRmw_calm c1 0x00 Config.configPrimRx
  have c2 : ((s.enable false).configRmw 0x00 Config.configPrimRx).calm := by
    rw [h2]; exact State.calm_of c1 rfl rfl
  have h3 := State.wait_calm c2 Config.tModeUs
  have c3 : (((s.enable false).configRmw 0x00 Config.configPrimRx).wait Config.tModeUs).calm := by
    rw [h3]; exact State.calm_of c2 rfl rfl
  refine ⟨s1, v, s2, d, u.next, ?_⟩
  rw [State.stopListening, State.setMode, State.assign_calm c3, h3, h2, State.enable_calm h]
  simp [State.afterBus, stopListeningEvents_config, Config.tModeUs]

/-- Register writes of one value to `n` registers in order, chip-select being high. -/
theorem State.writeRange_calm (h : s.calm) (hc : s.csn = true) (reg : Nat → Byte) (v : Byte) (n : Nat) :
    ∃ st ans u, ans.length = 2 * n ∧ (List.range n).foldl (fun s p => s.writeReg1 (reg p) v) s =
      { s with lastStatus := st }.afterBus
        ((List.range n).flatMap fun p => writeEvents (reg p) v) ans s.time u := by
  induction n with
  | zero => exact ⟨s.lastStatus, [], s.upc, rfl, rfl⟩
  | succ n ih =>
    obtain ⟨st, ans, u, hl, he⟩ := ih
    have c : ((List.range n).foldl (fun s p => s.writeReg1 (reg p) v) s).calm := by
      rw [he]; exact State.calm_of h rfl rfl
    obtain ⟨st', d, u', he'⟩ := State.writeReg1_calm c (reg n) v
    refine ⟨st', ans ++ [st', d], u', by simp [hl]; omega, ?_⟩
    rw [List.range_succ, List.foldl_append, List.foldl_cons, List.foldl_nil, he', he]
    simp [State.afterBus, hc]
    omega

/-- `SetPayloadSize(c)`: the shadow and the six writes; LAST_STATUS is the status of the last of them. -/
theorem State.setPayloadSize_calm (h : s.calm) (hc : s.csn = true) (c : Nat) :
    ∃ ans st d u, ans.length = 10 ∧ s.setPayloadSize c =
      { s with payloadSize := BitVec.ofNat 6 (sizeOf c), lastStatus := st }.afterBus
        (payloadSizeEvents (sizeOf c)) (ans ++ [st, d]) s.time u := by
  have c0 : (s.assign fun s => { s with payloadSize := BitVec.ofNat 6 (sizeOf c) }).calm := by
    rw [State.assign_calm h]; exact State.calm_of h rfl rfl
  have hc0 : (s.assign fun s => { s with payloadSize := BitVec.ofNat 6 (sizeOf c) }).csn = true := by
    rw [State.assign_calm h]; exact hc
  obtain ⟨st, ans, u, hl, he⟩ :=
    State.writeRange_calm c0 hc0 Config.regRxPw (BitVec.ofNat 8 (sizeOf c)) 5
  have c5 : ((List.range 5).foldl (fun s p => s.writeReg1 (Config.regRxPw p) (BitVec.ofNat 8 (sizeOf c)))
      (s.assign fun s => { s with payloadSize := BitVec.ofNat 6 (sizeOf c) })).calm := by
    rw [he]; exact State.calm_of c0 rfl rfl
  obtain ⟨st', d, u', he'⟩ := State.writeReg1_calm c5 (Config.regRxPw 5) (BitVec.ofNat 8 (sizeOf c))
  refine ⟨ans, st', d, u', hl, ?_⟩
  have hr : List.range Config.pipeCount = List.range 5 ++ [5] := rfl
  rw [State.setPayloadSize, hr, List.foldl_append, List.foldl_cons, List.foldl_nil, he', he, State.assign_calm h]
  simp [State.afterBus, payloadSizeEvents_config, hr, hc]
  omega

/-- BEGIN up to the power-up wait. -/
theorem State.beginPowerUp_calm (h : s.calm) :
    ∃ st d u, s.beginPowerUp =
      { s with pinsDriven := true, ce := false, csn := true, lastStatus := st }.afterBus
        powerUpEvents [st, d] (s.time + Config.tPwrupUs / 1000) u := by
  have h0 := State.assign_calm (f := fun s => { s with pinsDriven := true }) h
  have c0 : (s.assign fun s => { s with pinsDriven := true }).calm := by rw [h0]; exact State.calm_of h rfl rfl
  have h1 := State.enable_calm c0 false
  have c1 : ((s.assign fun s => { s with pinsDriven := true }).enable false).calm := by
    rw [h1]; exact State.calm_of c0 rfl rfl
  have h2 := State.select_calm c1 false
  have c2 : (((s.assign fun s => { s with pinsDriven := true }).enable false).select false).calm := by
    rw [h2]; exact State.calm_of c1 rfl rfl
  obtain ⟨st, d, u, h3⟩ := State.writeReg1_calm c2 Config.regConfig Config.configPowerUp
  have c3 : ((((s.assign fun s => { s with pinsDriven := true }).enable false).select false).writeReg1
      Config.regConfig Config.configPowerUp).calm := by
    rw [h3]; exact State.calm_of c2 rfl rfl
  refine ⟨st, d, u.next, ?_⟩
  rw [State.beginPowerUp, State.wait_calm c3, h3, h2, h1, h0]
  simp [State.afterBus, powerUpEvents_config]

/-- The CE pulse and the clock sample of SEND. -/
theorem State.pulse_calm (h : s.calm) :
    ∃ t u, s.time ≤ t ∧ (((s.enable true).wait Config.tCePulseUs).enable false).readT0 =
      { s with ce := false, t0 := BitVec.ofNat 32 t, draws := s.draws + 1 }.afterBus
        [.ce true, .wait Config.tCePulseUs, .ce false, .now (BitVec.ofNat 32 t)] [] t u := by
  have h1 := State.enable_calm h true
  have c1 : (s.enable true).calm := by rw [h1]; exact State.calm_of h rfl rfl
  have h2 := State.wait_calm c1 Config.tCePulseUs
  have c2 : ((s.enable true).wait Config.tCePulseUs).calm := by rw [h2]; exact State.calm_of c1 rfl rfl
  have h3 := State.enable_calm c2 false
  have c3 : (((s.enable true).wait Config.tCePulseUs).enable false).calm := by
    rw [h3]; exact State.calm_of c2 rfl rfl
  have h4 := State.readT0_calm c3
  have ht := State.le_freeTime (((s.enable true).wait Config.tCePulseUs).enable false)
  have htime : (((s.enable true).wait Config.tCePulseUs).enable false).time = s.time := by rw [h3, h2, h1]; rfl
  rw [htime] at ht
  refine ⟨_, s.upc.next.next.next.next, ht, ?_⟩
  rw [h4]
  generalize State.freeTime _ = t
  rw [h3, h2, h1]
  rfl

/-- Valid bytes are read the same whatever else the two states hold. -/
theorem State.dbufBytes_congr {s t : State} (hd : t.dbuf = s.dbuf) {n : Nat} (hv : s.dbuf.validTo n = true) :
    t.dbufBytes 0 n = s.dbufBytes 0 n := by
  refine List.map_congr_left fun k hk => ?_
  obtain ⟨b, hb⟩ := Option.isSome_iff_exists.1 ((Memory.validTo_iff _ _).1 hv k (List.mem_range.1 hk))
  simp [State.dbufByte, hd, hb]

/-- The end of a poll that saw the ack flag. -/
theorem State.ackEnd_calm (h : s.calm) (f : Byte) :
    ∃ st d u, s.clearFlags f =
      { s with csn := true, lastStatus := st }.afterBus (writeEvents Config.regStatus f) [st, d] s.time u :=
  State.writeReg1_calm h Config.regStatus f

/-- The end of a poll that saw the nack flag. -/
theorem State.nackEnd_calm (h : s.calm) (f : Byte) :
    ∃ s1 st d u, s.flushTx.clearFlags f =
      { s with csn := true, lastStatus := st }.afterBus
        (flushEvents ++ writeEvents Config.regStatus f) [s1, st, d] s.time u := by
  obtain ⟨st, u, h1⟩ := State.flushTx_calm h
  have c1 : s.flushTx.calm := by rw [h1]; exact State.calm_of h rfl rfl
  obtain ⟨st2, d, u2, h2⟩ := State.writeReg1_calm c1 Config.regStatus f
  refine ⟨st, st2, d, u2, ?_⟩
  rw [State.clearFlags, h2, h1]
  simp [State.afterBus]

/-- The end of a poll past the deadline. -/
theorem State.timeoutEnd_calm (h : s.calm) (start : Nat) (last : Bool) :
    ∃ st u, (s.readPollClock start last).flushTx =
      { s with csn := true, lastStatus := st, draws := s.draws + 1 }.afterBus
        ([Event.now (BitVec.ofNat 32 (s.pollTime start last))] ++ flushEvents) [st] (s.pollTime start last) u := by
  have h1 := State.readPollClock_calm h start last
  have c1 : (s.readPollClock start last).calm := by rw [h1]; exact State.calm_of h rfl rfl
  obtain ⟨st, u, h2⟩ := State.flushTx_calm c1
  refine ⟨st, u, ?_⟩
  rw [h2, h1]
  simp [State.afterBus]

/-- One more iteration after a poll that missed. -/
theorem State.missEnd_calm (h : s.calm) (start : Nat) :
    ∃ u, (s.readPollClock start false).wait Config.pollWaitUs =
      { s with draws := s.draws + 1 }.afterBus
        [.now (BitVec.ofNat 32 (s.pollTime start false)), .wait Config.pollWaitUs] []
        (s.pollTime start false + Config.pollWaitUs / 1000) u := by
  have h1 := State.readPollClock_calm h start false
  have c1 : (s.readPollClock start false).calm := by rw [h1]; exact State.calm_of h rfl rfl
  refine ⟨s.upc.next.next, ?_⟩
  rw [State.wait_calm c1, h1]
  rfl

/-- SEND before its poll loop, whose data bytes are all valid. -/
theorem State.sendPrologue_calm (h : s.calm) (n : Nat) (hv : s.dbuf.validTo (s.dataLength n) = true) :
    ∃ s1 v pay st t u, s.time ≤ t ∧ pay.length = 3 + s.dataLength n + s.blankLength n ∧ s.sendPrologue n =
      { s with
        csn := true, ce := false, mode := .idle, lastStatus := st, tmp := v, t0 := BitVec.ofNat 32 t
        draws := s.draws + 1 }.afterBus
          (sendPrologueEvents v (s.payloadBytes n) (BitVec.ofNat 32 t)) (s1 :: v :: pay) t u := by
  obtain ⟨s1, v, s2, d, u1, h1⟩ := State.stopListening_calm h
  have c1 : s.stopListening.calm := by rw [h1]; exact State.calm_of h rfl rfl
  obtain ⟨st, ds, u2, hl, h2⟩ := State.writePayload_calm c1 Config.cmdWriteTxPayload n
  have c2 : (s.stopListening.writePayload Config.cmdWriteTxPayload n).calm := by
    rw [h2]; exact State.calm_of c1 rfl rfl
  obtain ⟨t, u3, ht, h3⟩ := State.pulse_calm c2
  have hd : s.stopListening.dbuf = s.dbuf := by rw [h1]; rfl
  have hp : s.stopListening.payloadSize = s.payloadSize := by rw [h1]; rfl
  have hdl : s.stopListening.dataLength n = s.dataLength n := by simp [State.dataLength, hp]
  have hbl : s.stopListening.blankLength n = s.blankLength n := by simp [State.blankLength, hp, hdl]
  rw [hdl, hbl, State.dbufBytes_congr hd hv] at h2
  rw [hdl, hbl] at hl
  have htime : (s.stopListening.writePayload Config.cmdWriteTxPayload n).time = s.time := by rw [h2, h1]; rfl
  rw [htime] at ht
  refine ⟨s1, v, s2 :: d :: st :: ds, st, t, u3, ht, by simp [hl]; omega, ?_⟩
  rw [State.sendPrologue, h3, h2, h1]
  simp [State.afterBus, sendPrologueEvents_config, State.payloadBytes]
  omega

/-- The ends and the misses of the trace, in the machine's flag tests. -/
theorem Poll.ends_config (t0 : Word) (p : Poll) : p.ends t0 .ack = txDs p.value ∧
    p.ends t0 .nack = (!txDs p.value && maxRt p.value) ∧
    p.ends t0 .timeout = (!txDs p.value && !maxRt p.value && deadlinePassed p.clock t0) := by
  rw [txDs_eq, maxRt_eq]; exact ⟨rfl, rfl, rfl⟩

theorem Poll.missed_config (t0 : Word) (p : Poll) :
    p.missed t0 = (!txDs p.value && !maxRt p.value && !deadlinePassed p.clock t0) := by
  have h : decide ((p.clock - t0).toNat < 50) = !deadlinePassed p.clock t0 := by
    rw [deadlinePassed, ← decide_not]
    exact decide_eq_decide.2 not_le.symm
  rw [Poll.missed, h, txDs_eq, maxRt_eq]

theorem Poll.flags_config (p : Poll) : p.flags = p.value &&& (Config.maskTxDs ||| Config.maskMaxRt) := rfl

/-- One iteration of SEND's poll loop, whose `t0` was read at true time `start`: it ends the SEND, or it misses. -/
theorem State.poll_calm (h : s.calm) (head : SeqPos) (start : Nat) (last : Bool)
    (ht0 : s.t0 = BitVec.ofNat 32 start) :
    ∃ (p : Poll) (st : Byte) (tail : List Byte) (d t : Nat) (u : SeqPos), s.time ≤ t ∧ s.draws ≤ d ∧
      ((∃ o, p.ends s.t0 o = true ∧ tail.length = o.endLength ∧ tail[o.statusIndex]? = some st ∧ s.poll head start last =
          ({ s with csn := true, lastStatus := st, tmp := p.value, draws := d }.afterBus (p.endEvents o)
            (p.answers ++ tail) t u, some o)) ∨
        last = false ∧ p.missed s.t0 = true ∧ s.poll head start last =
          ({ s with csn := true, lastStatus := st, tmp := p.value, draws := d }.afterBus p.missEvents p.answers t u,
            none)) := by
  have h0 := State.assign_calm (f := fun s => { s with upc := head }) h
  have c0 : (s.assign fun s => { s with upc := head }).calm := by rw [h0]; exact State.calm_of h rfl rfl
  obtain ⟨st, v, u, h1⟩ := State.readReg1_calm c0 Config.regStatus
  have c1 : ((s.assign fun s => { s with upc := head }).readReg1 Config.regStatus).calm := by
    rw [h1]; exact State.calm_of c0 rfl rfl
  have hv : ((s.assign fun s => { s with upc := head }).readReg1 Config.regStatus).tmp = v := by rw [h1]; rfl
  have ht : ((s.assign fun s => { s with upc := head }).readReg1 Config.regStatus).time = s.time := by
    rw [h1, h0]; rfl
  have htz : ((s.assign fun s => { s with upc := head }).readReg1 Config.regStatus).t0 = s.t0 := by
    rw [h1, h0]; rfl
  rw [h0] at h1
  unfold State.poll
  simp only [hv, htz]
  rw [← h0] at h1
  by_cases hx : txDs v = true
  · obtain ⟨st2, d2, u2, h2⟩ := State.ackEnd_calm c1 (v &&& (Config.maskTxDs ||| Config.maskMaxRt))
    refine ⟨⟨st, v, 0⟩, st2, [st2, d2], s.draws, s.time, u2, le_refl _, le_refl _, .inl ⟨.ack, by rw [(Poll.ends_config _ _).1, hx], rfl, rfl, ?_⟩⟩
    rw [if_pos hx, h2, h1, h0]
    simp [State.afterBus, Poll.endEvents, Poll.answers, Poll.flags_config, Config.regStatus]
  · have hx' : txDs v = false := by simpa using hx
    by_cases hm : maxRt v = true
    · obtain ⟨st1, st2, d2, u2, h2⟩ := State.nackEnd_calm c1 (v &&& (Config.maskTxDs ||| Config.maskMaxRt))
      refine ⟨⟨st, v, 0⟩, st2, [st1, st2, d2], s.draws, s.time, u2, le_refl _, le_refl _,
        .inl ⟨.nack, by simp [(Poll.ends_config _ _).2.1, hx', hm], rfl, rfl, ?_⟩⟩
      rw [if_neg hx, if_pos hm, h2, h1, h0]
      simp [State.afterBus, Poll.endEvents, Poll.answers, Poll.flags_config, Config.regStatus]
    · have hm' : maxRt v = false := by simpa using hm
      generalize hq : (s.assign fun s => { s with upc := head }).readReg1 Config.regStatus = q at *
      have hb := q.le_pollTime start last
      by_cases hd : (last || deadlinePassed (BitVec.ofNat 32 (q.pollTime start last)) s.t0) = true
      · obtain ⟨st2, u2, h2⟩ := State.timeoutEnd_calm c1 start last
        have hp : deadlinePassed (BitVec.ofNat 32 (q.pollTime start last)) s.t0 = true := by
          cases last with
          | true => rw [ht0]; exact q.deadlinePassed_last start
          | false => simpa using hd
        refine ⟨⟨st, v, BitVec.ofNat 32 (q.pollTime start last)⟩, st2, [st2], s.draws + 1, _, u2, ht ▸ hb, by omega,
          .inl ⟨.timeout, by simp [(Poll.ends_config _ _).2.2, hx', hm', hp], rfl, rfl, ?_⟩⟩
        rw [if_neg hx, if_neg hm, if_pos hd, h2]
        generalize q.pollTime start last = tq at *
        rw [h1, h0]
        simp [State.afterBus, Poll.endEvents, Poll.answers, Config.regStatus]
      · obtain ⟨u2, h2⟩ := State.missEnd_calm c1 start
        simp only [Bool.or_eq_true, not_or, Bool.not_eq_true] at hd
        obtain ⟨rfl, hd⟩ := hd
        refine ⟨⟨st, v, BitVec.ofNat 32 (q.pollTime start false)⟩, st, [], s.draws + 1, _, u2,
          le_trans (ht ▸ hb) (Nat.le_add_right _ (Config.pollWaitUs / 1000)), by omega,
          .inr ⟨rfl, by simp [Poll.missed_config, hx', hm', hd], ?_⟩⟩
        rw [if_neg hx, if_neg hm, if_neg (by simp [hd]), h2]
        generalize q.pollTime start false = tq at *
        rw [h1, h0]
        simp [State.afterBus, Poll.missEvents, Poll.answers, Config.regStatus]

/-- SEND's poll loop: polls that miss, then one that ends it. -/
theorem State.pollLoop_calm (h : s.calm) (patience : Nat) (head : SeqPos) (start : Nat)
    (ht0 : s.t0 = BitVec.ofNat 32 start) (hc : s.csn = true) :
    ∃ (misses : List Poll) (last : Poll) (o : SendOutcome) (st : Byte) (tail : List Byte) (d t : Nat) (u : SeqPos),
      misses.all (Poll.missed s.t0) = true ∧ last.ends s.t0 o = true ∧ tail.length = o.endLength ∧
        tail[o.statusIndex]? = some st ∧ s.time ≤ t ∧ s.draws ≤ d ∧ s.pollLoop patience head start =
          ({ s with lastStatus := st, tmp := last.value, draws := d }.afterBus
            (misses.flatMap Poll.missEvents ++ last.endEvents o)
            (misses.flatMap Poll.answers ++ last.answers ++ tail) t u, o) := by
  induction patience generalizing s with
  | zero =>
    obtain ⟨p, st, tail, d, t, u, ht, hd, ⟨o, ho, hl1, hl2, he⟩ | ⟨hl, -⟩⟩ := State.poll_calm h head start true ht0
    · refine ⟨[], p, o, st, tail, d, t, u, rfl, ho, hl1, hl2, ht, hd, ?_⟩
      rw [State.pollLoop, he]
      simp [hc]
    · simp at hl
  | succ n ih =>
    obtain ⟨p, st, tail, d, t, u, ht, hd, ⟨o, ho, hl1, hl2, he⟩ | ⟨-, hm, he⟩⟩ :=
      State.poll_calm h head start false ht0
    · refine ⟨[], p, o, st, tail, d, t, u, rfl, ho, hl1, hl2, ht, hd, ?_⟩
      rw [State.pollLoop, he]
      simp [hc]
    · have c : (({ s with csn := true, lastStatus := st, tmp := p.value, draws := d } : State).afterBus p.missEvents
          p.answers t u).calm := State.calm_of h rfl rfl
      obtain ⟨misses, last, o, st2, tail2, d2, t2, u2, hm2, ho, hl1, hl2, ht3, hd2, he2⟩ :=
        ih c ht0 rfl
      change misses.all (Poll.missed s.t0) = true at hm2
      change d + 2 ≤ d2 at hd2
      refine ⟨p :: misses, last, o, st2, tail2, d2 - 2, t2, u2, ?_, ho, hl1, hl2, le_trans ht ht3, by omega, ?_⟩
      · simpa [hm] using hm2
      · rw [State.pollLoop, he]
        simp only [he2]
        simp [State.afterBus, hc, Poll.answers]
        omega

/-- The body of SEND, whose data bytes are all valid. -/
theorem State.sendBody_calm (h : s.calm) (n : Nat) (hv : s.dbuf.validTo (s.dataLength n) = true) :
    ∃ (v : Byte) (misses : List Poll) (last : Poll) (o : SendOutcome) (st : Byte) (start : Nat) (t0 : Word)
      (s1 : Byte) (pay tail : List Byte) (d t : Nat) (u : SeqPos),
      t0 = BitVec.ofNat 32 start ∧ s.time ≤ start ∧ start ≤ t ∧ misses.all (Poll.missed t0) = true ∧
        last.ends t0 o = true ∧ pay.length = 3 + s.dataLength n + s.blankLength n ∧ tail.length = o.endLength ∧
        tail[o.statusIndex]? = some st ∧ s.draws ≤ d ∧ s.sendBody n =
        { s with
          csn := true, ce := false, mode := .idle, lastStatus := st, tmp := last.value, t0 := t0
          lastSendOk := o.ok, linkLed := o.ok, resp := o.word, draws := d }.afterBus
            (sendEvents v (s.payloadBytes n) t0 misses last o)
            (s1 :: v :: pay ++ misses.flatMap Poll.answers ++ last.answers ++ tail) t u := by
  obtain ⟨s1, v, pay, st, t1, u1, ht1, hl, h1⟩ := State.sendPrologue_calm h n hv
  have c1 : (s.sendPrologue n).calm := by rw [h1]; exact State.calm_of h rfl rfl
  obtain ⟨misses, last, o, st2, tail, d, t, u, hm, ho, hl1, hl2, ht, hd, h2⟩ :=
    State.pollLoop_calm c1 (Config.sendPatience (s.sendPrologue n).draws (s.sendPrologue n).history)
      (s.sendPrologue n).upc t1 (by rw [h1]; rfl) (by rw [h1]; rfl)
  have e0 : (s.sendPrologue n).t0 = BitVec.ofNat 32 t1 := by rw [h1]; rfl
  have et : (s.sendPrologue n).time = t1 := by rw [h1]; rfl
  have ed : (s.sendPrologue n).draws = s.draws + 1 + (pay.length + 2) := by rw [h1]; rfl
  rw [e0] at hm ho
  rw [et] at ht
  rw [ed] at hd
  have c2 : ((s.sendPrologue n).pollLoop (Config.sendPatience (s.sendPrologue n).draws (s.sendPrologue n).history)
      (s.sendPrologue n).upc t1).1.calm := by rw [h2]; exact State.calm_of c1 rfl rfl
  refine ⟨v, misses, last, o, st2, t1, BitVec.ofNat 32 t1, s1, pay, tail, d - (pay.length + 2), t, u, rfl, ht1, ht, hm,
    ho, hl, hl1, hl2, by omega, ?_⟩
  simp only [State.sendBody]
  rw [et, State.assign_calm c2, h2]
  generalize Config.sendPatience _ _ = k at *
  rw [h1]
  simp [State.afterBus, sendEvents]
  omega

end Sys2Proof.Machine
end

