-- ==== Sys2Proof/Laws/Decode.lean ====
section
/-! SUPPORT. Words as bytes and as fields: each field of a built word is what it was built from, and a word is what its
fields build. -/

namespace Sys2Proof

/-! ### Bytes -/

/-- Bit `i` of a word built from bytes. -/
theorem getLsbD_wordOfBytes (b0 b1 b2 b3 : Byte) (i : Nat) :
    (wordOfBytes b0 b1 b2 b3).getLsbD i =
      if i < 8 then b0.getLsbD i else if i < 16 then b1.getLsbD (i - 8)
      else if i < 24 then b2.getLsbD (i - 16) else b3.getLsbD (i - 24) := by
  unfold wordOfBytes
  rw [BitVec.getLsbD_append, BitVec.getLsbD_append, BitVec.getLsbD_append]
  split_ifs <;> first | rfl | omega

@[simp] theorem fieldC_wordOfBytes (b0 b1 b2 b3 : Byte) : fieldC (wordOfBytes b0 b1 b2 b3) = b0 := by
  apply BitVec.eq_of_getLsbD_eq
  intro i hi
  simp only [fieldC, BitVec.getLsbD_extractLsb', getLsbD_wordOfBytes]
  split_ifs <;> first | omega | simp [hi]

@[simp] theorem fieldB_wordOfBytes (b0 b1 b2 b3 : Byte) : fieldB (wordOfBytes b0 b1 b2 b3) = b1 := by
  apply BitVec.eq_of_getLsbD_eq
  intro i hi
  simp only [fieldB, BitVec.getLsbD_extractLsb', getLsbD_wordOfBytes]
  split_ifs <;> first | omega | simp [hi]

@[simp] theorem fieldA_wordOfBytes (b0 b1 b2 b3 : Byte) : fieldA (wordOfBytes b0 b1 b2 b3) = b2 := by
  apply BitVec.eq_of_getLsbD_eq
  intro i hi
  simp only [fieldA, BitVec.getLsbD_extractLsb', getLsbD_wordOfBytes]
  split_ifs <;> first | omega | simp [hi]

@[simp] theorem fieldOp_wordOfBytes (b0 b1 b2 b3 : Byte) : fieldOp (wordOfBytes b0 b1 b2 b3) = b3 := by
  apply BitVec.eq_of_getLsbD_eq
  intro i hi
  simp only [fieldOp, BitVec.getLsbD_extractLsb', getLsbD_wordOfBytes]
  split_ifs <;> first | omega | simp [hi]

@[simp] theorem wordBytes_wordOfBytes (b0 b1 b2 b3 : Byte) :
    wordBytes (wordOfBytes b0 b1 b2 b3) = [b0, b1, b2, b3] := by
  simp [wordBytes]

@[simp] theorem wordOfBytes_fields (w : Word) : wordOfBytes (fieldC w) (fieldB w) (fieldA w) (fieldOp w) = w := by
  apply BitVec.eq_of_getLsbD_eq
  intro i hi
  rw [getLsbD_wordOfBytes]
  simp only [fieldC, fieldB, fieldA, fieldOp, BitVec.getLsbD_extractLsb']
  split_ifs with h0 h1 h2
  · simp [h0]
  · simp [show i - 8 < 8 by omega, show 8 + (i - 8) = i by omega]
  · simp [show i - 16 < 8 by omega, show 16 + (i - 16) = i by omega]
  · simp [show i - 24 < 8 by omega, show 24 + (i - 24) = i by omega]

theorem and_wordOfBytes (b0 b1 b2 b3 m0 m1 m2 m3 : Byte) :
    wordOfBytes b0 b1 b2 b3 &&& wordOfBytes m0 m1 m2 m3 =
      wordOfBytes (b0 &&& m0) (b1 &&& m1) (b2 &&& m2) (b3 &&& m3) := by
  apply BitVec.eq_of_getLsbD_eq
  intro i hi
  simp only [BitVec.getLsbD_and, getLsbD_wordOfBytes]
  split_ifs <;> rfl

/-! ### Format F -/

/-- Bit `i` of a word of format F. -/
theorem getLsbD_wordF (op : Byte) (ax ay : BitVec 10) (trg sw : Bool) (i : Nat) :
    (wordF op ax ay trg sw).getLsbD i =
      if i = 0 then sw else if i = 1 then trg else if i < 4 then false
      else if i < 14 then ay.getLsbD (i - 4) else if i < 24 then ax.getLsbD (i - 14) else op.getLsbD (i - 24) := by
  unfold wordF
  rw [BitVec.getLsbD_append, BitVec.getLsbD_append, BitVec.getLsbD_append, BitVec.getLsbD_append,
    BitVec.getLsbD_append]
  by_cases h0 : i = 0
  · subst h0; simp
  · by_cases h1 : i = 1
    · subst h1; simp
    · simp only [h0, h1, if_false]
      split_ifs <;> first | omega | rfl | simp

@[simp] theorem fieldOp_wordF (op : Byte) (ax ay : BitVec 10) (trg sw : Bool) : fieldOp (wordF op ax ay trg sw) = op := by
  apply BitVec.eq_of_getLsbD_eq
  intro i hi
  simp only [fieldOp, BitVec.getLsbD_extractLsb', getLsbD_wordF]
  split_ifs <;> first | omega | simp [hi]

@[simp] theorem fieldAx_wordF (op : Byte) (ax ay : BitVec 10) (trg sw : Bool) : fieldAx (wordF op ax ay trg sw) = ax := by
  apply BitVec.eq_of_getLsbD_eq
  intro i hi
  simp only [fieldAx, BitVec.getLsbD_extractLsb', getLsbD_wordF]
  split_ifs <;> first | omega | simp [hi]

@[simp] theorem fieldAy_wordF (op : Byte) (ax ay : BitVec 10) (trg sw : Bool) : fieldAy (wordF op ax ay trg sw) = ay := by
  apply BitVec.eq_of_getLsbD_eq
  intro i hi
  simp only [fieldAy, BitVec.getLsbD_extractLsb', getLsbD_wordF]
  split_ifs <;> first | omega | simp [hi]

@[simp] theorem fieldZ_wordF (op : Byte) (ax ay : BitVec 10) (trg sw : Bool) : fieldZ (wordF op ax ay trg sw) = 0 := by
  apply BitVec.eq_of_getLsbD_eq
  intro i hi
  simp only [fieldZ, BitVec.getLsbD_extractLsb', getLsbD_wordF]
  split_ifs <;> first | omega | simp

@[simp] theorem fieldTrg_wordF (op : Byte) (ax ay : BitVec 10) (trg sw : Bool) :
    fieldTrg (wordF op ax ay trg sw) = trg := by
  rw [fieldTrg, getLsbD_wordF]; rfl

@[simp] theorem fieldSw_wordF (op : Byte) (ax ay : BitVec 10) (trg sw : Bool) :
    fieldSw (wordF op ax ay trg sw) = sw := by
  rw [fieldSw, getLsbD_wordF]; rfl

/-- A word whose bits 3 and 2 are 0 is what its fields build in format F. -/
theorem wordF_fields (w : Word) (h : fieldZ w = 0) :
    wordF (fieldOp w) (fieldAx w) (fieldAy w) (fieldTrg w) (fieldSw w) = w := by
  apply BitVec.eq_of_getLsbD_eq
  intro i hi
  have hz : ∀ k, k < 2 → w.getLsbD (2 + k) = false := by
    intro k hk
    have := congrArg (fun z => BitVec.getLsbD z k) h
    simpa [fieldZ, hk] using this
  simp only [getLsbD_wordF, fieldOp, fieldAx, fieldAy, fieldTrg, fieldSw, BitVec.getLsbD_extractLsb']
  split_ifs with h0 h1 h2 h3 h4
  · rw [h0]
  · rw [h1]
  · have := hz (i - 2) (by omega)
    rw [show 2 + (i - 2) = i by omega] at this
    exact this.symm
  · simp [show i - 4 < 10 by omega, show 4 + (i - 4) = i by omega]
  · simp [show i - 14 < 10 by omega, show 14 + (i - 14) = i by omega]
  · simp [show i - 24 < 8 by omega, show 24 + (i - 24) = i by omega]

/-! ### Pieces of the decoder -/

/-- What a legality check lets through. -/
theorem whenLegal_ok {op : Byte} {legal : Bool} {i j : Instr} (h : whenLegal op legal i = .ok j) :
    legal = true ∧ i = j := by
  unfold whenLegal at h
  split at h <;> simp_all

/-- A word is what its fields build in format G. -/
theorem wordG_fields (w : Word) : wordG (fieldOp w) (fieldA w) (fieldB w) (fieldC w) = w := wordOfBytes_fields w

/-- Decoding a word's four bytes is decoding the word. -/
theorem decode_wordBytes (w : Word) : decode (wordBytes w) = decodeWord w := by
  have h := wordOfBytes_fields w
  simp only [wordBytes, decode]
  rw [h]

end Sys2Proof
end

