-- ==== Sys2Proof/Laws/Interrupt.lean ====
section
/-! SUPPORT. What the outside world can do to a running command, said once for every body: a command either runs to its
end as it would with no outside world, but for what is still to come and what the host has read, or a reset abandons it.
A statement about every state so reduces to the states with nothing to come. -/

namespace Sys2Proof.Machine

/-- The state with nothing to come and nothing read. -/
def State.hush (s : State) : State := { s with inputs := [], reads := [] }

/-- `t` comes after `s` with no reset between them: the history, the answers, the clock and the draws went on. -/
structure State.Grows (s t : State) : Prop where
  events : ∃ evs, t.history = evs ++ s.history ∧ Event.reset ∉ evs
  answers : s.answers <:+ t.answers
  time : s.time ≤ t.time
  draws : s.draws ≤ t.draws

/-- What was to come in `s` and is no longer in `t` was at most reads of BSTAT, and none if nothing lands in a
command. -/
structure State.Waits (s t : State) : Prop where
  quiet : s.quiet = true → t.inputs = s.inputs ∧ t.reads = s.reads
  noReset : s.noReset = true → t.noReset = true
  landed : ∃ made, t.reads = made ++ s.reads ∧ Landed made s.inputs t.inputs

/-- `t` is what a reset left that landed in a command that was running in `s`. -/
structure State.Abandoned (s t : State) : Prop where
  registers : t = { State.reset with
    history := t.history, answers := t.answers, draws := t.draws, time := t.time, inputs := t.inputs, reads := t.reads }
  events : ∃ evs, t.history = .reset :: evs ++ s.history ∧ Event.reset ∉ evs
  answers : s.answers <:+ t.answers
  time : s.time ≤ t.time
  came : s.quiet = false ∧ s.noReset = false

/-- `t` is a result of a body run in `s` whose result with no outside world is `t'`. -/
def State.Runs (s t t' : State) : Prop :=
  (s.busy = false ∧ t = s) ∨
    (s.busy = true ∧ t.busy = true ∧ t.hush = t' ∧ s.Grows t ∧ s.Waits t) ∨ (s.busy = true ∧ s.Abandoned t)

/-- A body that the outside world can do no more to. -/
def Interruptible (f : State → State) : Prop := ∀ s : State, s.Runs (f s) (f s.hush)

variable {s t u : State}

@[simp] theorem State.hush_hush : s.hush.hush = s.hush := rfl
@[simp] theorem State.hush_busy : s.hush.busy = s.busy := rfl

theorem State.Grows.refl : s.Grows s := ⟨⟨[], rfl, by simp⟩, List.suffix_refl _, le_refl _, le_refl _⟩

theorem State.Grows.trans (h : s.Grows t) (h' : t.Grows u) : s.Grows u := by
  obtain ⟨e, he, hn⟩ := h.events
  obtain ⟨e', he', hn'⟩ := h'.events
  exact ⟨⟨e' ++ e, by rw [he', he, List.append_assoc], by simp [hn, hn']⟩, h.answers.trans h'.answers,
    le_trans h.time h'.time, le_trans h.draws h'.draws⟩

theorem State.quiet_congr (h : t.inputs = s.inputs) : t.quiet = s.quiet := by rw [State.quiet, h]; rfl

/-- Nothing landed. -/
theorem State.Waits.of_eq (hi : t.inputs = s.inputs) (hr : t.reads = s.reads) : s.Waits t :=
  ⟨fun _ => ⟨hi, hr⟩, fun h => by rw [State.noReset, hi]; exact h, [], hr, by rw [hi]; exact .nil _⟩

theorem State.Waits.trans (h : s.Waits t) (h' : t.Waits u) : s.Waits u := by
  obtain ⟨m, hm, hl⟩ := h.landed
  obtain ⟨m', hm', hl'⟩ := h'.landed
  refine ⟨fun hq => ?_, fun hn => h'.noReset (h.noReset hn), m' ++ m, by rw [hm', hm, List.append_assoc], hl.trans hl'⟩
  have h1 := h.quiet hq
  have h2 := h'.quiet (by rw [State.quiet_congr h1.1]; exact hq)
  exact ⟨h2.1.trans h1.1, h2.2.trans h1.2⟩

theorem State.Abandoned.of (h : s.Grows t) (hw : s.Waits t) (h' : t.Abandoned u) : s.Abandoned u := by
  obtain ⟨e, he, hn⟩ := h.events
  obtain ⟨e', he', hn'⟩ := h'.events
  refine ⟨h'.registers, ⟨e' ++ e, by rw [he', he]; simp, by simp [hn, hn']⟩, h.answers.trans h'.answers,
    le_trans h.time h'.time, ?_, ?_⟩
  · by_contra hq
    have hq : s.quiet = true := by simpa using hq
    have := h'.came.1
    rw [State.quiet_congr (hw.quiet hq).1, hq] at this
    exact absurd this (by decide)
  · by_contra hq
    have := h'.came.2
    rw [hw.noReset (by simpa using hq)] at this
    exact absurd this (by decide)

theorem State.Abandoned.busy (h : s.Abandoned t) : t.busy = false := by rw [h.registers]; rfl

/-- One body after another. -/
theorem State.Runs.trans {t' u' : State} (h : s.Runs t t') (h' : t.Runs u u') : s.Runs u u' := by
  rcases h with ⟨-, rfl⟩ | ⟨hb, hbt, -, hg, hw⟩ | ⟨hb, ha⟩
  · exact h'
  · rcases h' with ⟨hb', rfl⟩ | ⟨-, hb', hh, hg', hw'⟩ | ⟨-, ha⟩
    · rw [hbt] at hb'; exact absurd hb' (by decide)
    · exact .inr (.inl ⟨hb, hb', hh, hg.trans hg', hw.trans hw'⟩)
    · exact .inr (.inr ⟨hb, State.Abandoned.of hg hw ha⟩)
  · rcases h' with ⟨-, rfl⟩ | ⟨hb', -⟩ | ⟨hb', -⟩
    · exact .inr (.inr ⟨hb, ha⟩)
    · rw [ha.busy] at hb'; exact absurd hb' (by decide)
    · rw [ha.busy] at hb'; exact absurd hb' (by decide)

/-- A body does nothing in a state in which no command runs. -/
theorem State.Runs.idle {t' : State} (h : s.Runs t t') (hb : s.busy = false) : t = s := by
  rcases h with ⟨-, he⟩ | ⟨hb', -⟩ | ⟨hb', -⟩
  · exact he
  · rw [hb] at hb'; exact absurd hb' (by decide)
  · rw [hb] at hb'; exact absurd hb' (by decide)

theorem Interruptible.id : Interruptible fun s => s := fun s => by
  cases h : s.busy
  · exact .inl ⟨h, rfl⟩
  · exact .inr (.inl ⟨h, h, rfl, .refl, .of_eq rfl rfl⟩)

theorem Interruptible.comp {f g : State → State} (hg : Interruptible g) (hf : Interruptible f) :
    Interruptible fun s => g (f s) := fun s => by
  have h1 := hf s
  have h2 := hg (f s)
  rcases h1 with ⟨hb, he⟩ | ⟨hb, hbt, hh, hgr, hw⟩ | ⟨hb, ha⟩
  · rw [he] at h2
    exact .inl ⟨hb, by simpa only [he] using h2.idle hb⟩
  · rw [hh] at h2
    exact State.Runs.trans (t' := f s.hush) (.inr (.inl ⟨hb, hbt, hh, hgr, hw⟩)) h2
  · exact .inr (.inr ⟨hb, by simpa [h2.idle ha.busy] using ha⟩)

/-- A body that uses a value of the state it starts in, of which what is to come is no part. -/
theorem Interruptible.using {α : Type} {F : α → State → State} (hF : ∀ v, Interruptible (F v)) (g : State → α)
    (hg : ∀ s : State, g s.hush = g s) : Interruptible fun s => F (g s) s := fun s => by
  have := hF (g s) s
  simpa only [hg] using this

/-- A body that chooses by a value of the state it starts in. -/
theorem Interruptible.ite {c : State → Bool} {f g : State → State} (hf : Interruptible f) (hg : Interruptible g)
    (hc : ∀ s : State, c s.hush = c s) : Interruptible fun s => if c s = true then f s else g s := fun s => by
  have h1 := hf s
  have h2 := hg s
  simp only [hc]
  split
  · exact h1
  · exact h2

theorem Interruptible.foldl {α : Type} {F : State → α → State} (l : List α)
    (hF : ∀ a, Interruptible fun s => F s a) : Interruptible fun s => l.foldl F s := by
  induction l with
  | nil => exact .id
  | cons a l ih => exact ih.comp (hF a)

/-! ### Steps and assignments -/

/-- What an assignment or the effect of a step may be: it neither sees nor changes what is to come and what was read. -/
structure Effect (f : State → State) : Prop where
  hush : ∀ s : State, (f s).hush = f s.hush
  busy : ∀ s : State, (f s).busy = s.busy
  inputs : ∀ s : State, (f s).inputs = s.inputs
  reads : ∀ s : State, (f s).reads = s.reads
  grows : ∀ s : State, s.Grows (f s)

theorem Effect.waits {f : State → State} (hf : Effect f) (s : State) : s.Waits (f s) :=
  .of_eq (hf.inputs s) (hf.reads s)

theorem Interruptible.assign {f : State → State} (hf : Effect f) : Interruptible (State.assign f) := fun s => by
  cases hb : s.busy
  · exact .inl ⟨hb, State.assign_idle hb⟩
  · rw [State.assign_busy hb, State.assign_busy (s := s.hush) hb]
    exact .inr (.inl ⟨hb, (hf.busy s).trans hb, hf.hush s, hf.grows s, hf.waits s⟩)

theorem State.noReset_iff (s : State) : s.noReset = true ↔ ∀ i ∈ s.inputs, i.act ≠ .reset := by
  simp [State.noReset]

theorem Interruptible.tick {f : State → State} (hf : Effect f) : Interruptible (State.tick f) := fun s => by
  cases hb : s.busy
  · exact .inl ⟨hb, State.tick_idle hb⟩
  · have hh : s.hush.tick f = (f s).counted.hush := by
      have hq : (f s.hush).quiet = true := by rw [State.quiet_congr (hf.inputs _)]; rfl
      rw [State.tick_quiet (s := s.hush) hb hq, ← hf.hush]; rfl
    have hbc : (f s).counted.busy = true := (hf.busy s).trans hb
    have hin : (f s).counted.inputs = s.inputs := hf.inputs s
    have hrd : (f s).counted.reads = s.reads := hf.reads s
    have hgr : s.Grows (f s).counted := ⟨(hf.grows s).events, (hf.grows s).answers, (hf.grows s).time, (hf.grows s).draws⟩
    rw [hh]
    simp only [State.tick, hb, if_true]
    generalize (f s).counted = c at *
    have hwn : s.noReset = true → c.boundary.noReset = true := by
      intro hn
      obtain ⟨ins, rds, he, hi⟩ := State.boundary_noReset (hin ▸ (State.noReset_iff s).1 hn)
      rw [he]; exact (State.noReset_iff _).2 hi
    have hwq : s.quiet = true → c.boundary = c := fun hq => State.boundary_quiet (by rw [State.quiet_congr hin]; exact hq)
    rcases State.boundary_cases c with ⟨ins, made, he, hl⟩ | ⟨⟨i, hi, ha⟩, ins, rds, he⟩
    · refine .inr (.inl ⟨hb, by rw [he]; exact hbc, by rw [he]; rfl, ?_,
        ⟨fun hq => ?_, hwn, made, by rw [he, ← hrd], by rw [he, ← hin]; exact hl hbc⟩⟩)
      · rw [he]; exact ⟨hgr.events, hgr.answers, hgr.time, hgr.draws⟩
      · rw [hwq hq]; exact ⟨hin, hrd⟩
    · obtain ⟨evs, hev, hne⟩ := hgr.events
      refine .inr (.inr ⟨hb, by rw [he]; rfl, ⟨evs, by rw [he]; exact congrArg (Event.reset :: ·) hev, hne⟩,
        by rw [he]; exact hgr.answers, by rw [he]; exact hgr.time, ?_, ?_⟩)
      · by_contra hq
        have h1 := hwq (by simpa using hq)
        rw [he] at h1
        have := congrArg State.busy h1
        rw [hbc] at this
        exact absurd (show false = true from this) (by decide)
      · by_contra hn
        exact (State.noReset_iff s).1 (by simpa using hn) i (by rw [← hin]; exact hi) ha

/-! ### Primitives -/

theorem Interruptible.wait (us : Nat) : Interruptible (State.wait us) :=
  .tick ⟨fun _ => rfl, fun _ => rfl, fun _ => rfl, fun _ => rfl, fun _ =>
    ⟨⟨[.wait us], rfl, by simp⟩, List.suffix_refl _, Nat.le_add_right _ _, le_refl _⟩⟩

theorem Interruptible.select (active : Bool) : Interruptible (State.select active) :=
  (Interruptible.wait Config.tCsnUs).comp (.tick ⟨fun _ => rfl, fun _ => rfl, fun _ => rfl, fun _ => rfl, fun _ =>
    ⟨⟨[.csn (!active)], rfl, by simp⟩, List.suffix_refl _, le_refl _, le_refl _⟩⟩)

theorem Interruptible.enable (l : Bool) : Interruptible (State.enable l) :=
  .tick ⟨fun _ => rfl, fun _ => rfl, fun _ => rfl, fun _ => rfl, fun _ =>
    ⟨⟨[.ce l], rfl, by simp⟩, List.suffix_refl _, le_refl _, le_refl _⟩⟩

theorem Interruptible.putByte (b : Byte) : Interruptible (State.putByte b) :=
  .tick ⟨fun _ => rfl, fun _ => rfl, fun _ => rfl, fun _ => rfl, fun _ =>
    ⟨⟨[.xfer b], rfl, by simp⟩, List.suffix_cons _ _, le_refl _, Nat.le_succ _⟩⟩

theorem Interruptible.getTmp (b : Byte) : Interruptible (State.getTmp b) :=
  .tick ⟨fun _ => rfl, fun _ => rfl, fun _ => rfl, fun _ => rfl, fun _ =>
    ⟨⟨[.xfer b], rfl, by simp⟩, List.suffix_cons _ _, le_refl _, Nat.le_succ _⟩⟩

theorem Interruptible.getDbuf (i : Nat) : Interruptible (State.getDbuf i) :=
  .tick ⟨fun _ => rfl, fun _ => rfl, fun _ => rfl, fun _ => rfl, fun _ =>
    ⟨⟨[.xfer Config.dummyByte], rfl, by simp⟩, List.suffix_cons _ _, le_refl _, Nat.le_succ _⟩⟩

theorem Interruptible.commandByte (b : Byte) : Interruptible (State.commandByte b) :=
  .tick ⟨fun _ => rfl, fun _ => rfl, fun _ => rfl, fun _ => rfl, fun _ =>
    ⟨⟨[.xfer b], rfl, by simp⟩, List.suffix_cons _ _, le_refl _, Nat.le_succ _⟩⟩

theorem Interruptible.readT0 : Interruptible State.readT0 :=
  .tick ⟨fun _ => rfl, fun _ => rfl, fun _ => rfl, fun _ => rfl, fun s =>
    ⟨⟨[.now (BitVec.ofNat 32 s.freeTime)], rfl, by simp⟩, List.suffix_refl _, Nat.le_add_right _ _, Nat.le_succ _⟩⟩

theorem Interruptible.readPollClock (start : Nat) (last : Bool) : Interruptible (State.readPollClock start last) :=
  .tick ⟨fun _ => rfl, fun _ => rfl, fun _ => rfl, fun _ => rfl, fun s =>
    ⟨⟨[.now (BitVec.ofNat 32 (s.pollTime start last))], rfl, by simp⟩, List.suffix_refl _, s.le_pollTime start last,
      Nat.le_succ _⟩⟩

theorem Interruptible.putBytes (bs : List Byte) : Interruptible (State.putBytes bs) := by
  induction bs with
  | nil => exact .id
  | cons b bs ih => exact ih.comp (.putByte b)

theorem Interruptible.getBytes (n i : Nat) : Interruptible (State.getBytes n i) := by
  induction n generalizing i with
  | zero => exact .id
  | succ n ih => exact (ih (i + 1)).comp (.getDbuf i)

/-- An assignment that records nothing. -/
theorem Effect.assignment {f : State → State} (hh : ∀ s : State, (f s).hush = f s.hush)
    (hb : ∀ s : State, (f s).busy = s.busy) (hi : ∀ s : State, (f s).inputs = s.inputs)
    (hr : ∀ s : State, (f s).reads = s.reads)
    (hg : ∀ s : State, (f s).history = s.history ∧ (f s).answers = s.answers ∧ (f s).time = s.time ∧
      (f s).draws = s.draws) : Effect f :=
  ⟨hh, hb, hi, hr, fun s => ⟨⟨[], (hg s).1, by simp⟩, by rw [(hg s).2.1], by rw [(hg s).2.2.1], by rw [(hg s).2.2.2]⟩⟩

theorem Interruptible.respond {v : State → Word} (hv : ∀ s : State, v s.hush = v s) : Interruptible (State.respond v) :=
  .assign (.assignment (fun s => by simp [State.hush, ← hv s]) (fun _ => rfl) (fun _ => rfl) (fun _ => rfl)
    fun _ => ⟨rfl, rfl, rfl, rfl⟩)

theorem Interruptible.setMode (m : Mode) : Interruptible (State.setMode m) :=
  .assign (.assignment (fun _ => rfl) (fun _ => rfl) (fun _ => rfl) (fun _ => rfl) fun _ => ⟨rfl, rfl, rfl, rfl⟩)

/-! ### Scopes and helpers -/

theorem Interruptible.scope {body : State → State} (h : Interruptible body) : Interruptible (State.scope body) :=
  (Interruptible.select false).comp (h.comp (.select true))

theorem Interruptible.writeReg (reg : Byte) (bytes : List Byte) : Interruptible (State.writeReg reg bytes) :=
  .scope ((Interruptible.putBytes bytes).comp (.commandByte _))

theorem Interruptible.writeReg1 (reg v : Byte) : Interruptible (State.writeReg1 reg v) := .writeReg reg [v]

theorem Interruptible.readReg1 (reg : Byte) : Interruptible (State.readReg1 reg) :=
  .scope ((Interruptible.getTmp _).comp (.commandByte _))

theorem Interruptible.clearFlags (m : Byte) : Interruptible (State.clearFlags m) := .writeReg1 _ m

theorem Interruptible.flushTx : Interruptible State.flushTx := .scope (.commandByte _)

theorem Interruptible.configRmw (set clear : Byte) : Interruptible (State.configRmw set clear) :=
  (Interruptible.using (F := fun v s => s.writeReg1 Config.regConfig v) (fun _ => .writeReg1 _ _)
    (fun s => (s.tmp ||| set) &&& ~~~clear) fun _ => rfl).comp (.readReg1 _)

theorem Interruptible.writePayload (c : Byte) (n : Nat) : Interruptible (State.writePayload c n) :=
  .using (F := fun bs s => s.scope fun s' => (s'.commandByte c).putBytes bs)
    (fun bs => .scope ((Interruptible.putBytes bs).comp (.commandByte c)))
    (fun s => s.dbufBytes 0 (s.dataLength n) ++ List.replicate (s.blankLength n) Config.padByte) fun _ => rfl

theorem Interruptible.readPayload (n : Nat) : Interruptible (State.readPayload n) :=
  .using (F := fun (p : Nat × Nat) s => s.scope fun s' =>
      ((s'.commandByte Config.cmdReadRxPayload).getBytes p.1 0).putBytes (List.replicate p.2 Config.dummyByte))
    (fun _ => .scope ((Interruptible.putBytes _).comp ((Interruptible.getBytes _ _).comp (.commandByte _))))
    (fun s => (s.dataLength n, s.blankLength n)) fun _ => rfl

theorem Interruptible.stopListening : Interruptible State.stopListening :=
  (Interruptible.setMode .idle).comp ((Interruptible.wait _).comp ((Interruptible.configRmw _ _).comp (.enable false)))

theorem Interruptible.setPayloadSize (c : Nat) : Interruptible (State.setPayloadSize c) :=
  (Interruptible.foldl _ fun p => .writeReg1 (Config.regRxPw p) (BitVec.ofNat 8 (sizeOf c))).comp
    (.assign (.assignment (fun _ => rfl) (fun _ => rfl) (fun _ => rfl) (fun _ => rfl) fun _ => ⟨rfl, rfl, rfl, rfl⟩))

theorem Interruptible.storePacket (p : Packet) : Interruptible (State.storePacket p) :=
  .assign (.assignment (fun _ => rfl) (fun _ => rfl) (fun _ => rfl) (fun _ => rfl) fun _ => ⟨rfl, rfl, rfl, rfl⟩)

theorem Interruptible.frameBody (ax ay : BitVec 10) (trg sw : Bool) : Interruptible (State.frameBody ax ay trg sw) :=
  (Interruptible.respond fun _ => rfl).comp (.storePacket _)

theorem Interruptible.edgeStep (p : Bool) : Interruptible (State.edgeStep p) :=
  .assign (.assignment (fun _ => rfl) (fun _ => rfl) (fun _ => rfl) (fun _ => rfl) fun _ => ⟨rfl, rfl, rfl, rfl⟩)

theorem Interruptible.motorOut (p : Packet) : Interruptible (State.motorOut p) :=
  .assign (.assignment (fun _ => rfl) (fun _ => rfl) (fun _ => rfl) (fun _ => rfl) fun _ => ⟨rfl, rfl, rfl, rfl⟩)

theorem Interruptible.losStep (got : Option Packet) : Interruptible (State.losStep got) := by
  cases got <;>
    exact .assign (.assignment (fun _ => rfl) (fun _ => rfl) (fun _ => rfl) (fun _ => rfl) fun _ =>
      ⟨rfl, rfl, rfl, rfl⟩)

theorem Interruptible.consume (got : Option Packet) : Interruptible (State.consume got) :=
  (Interruptible.using (F := fun p s => (s.motorOut p).storePacket p)
    (fun p => (Interruptible.storePacket p).comp (.motorOut p)) (fun s => s.effective got) fun _ => by
      cases got <;> rfl).comp (.losStep got)

theorem Interruptible.openPipe (pipe : Nat) : Interruptible (State.openPipe pipe) :=
  (Interruptible.using (F := fun v s => s.writeReg1 Config.regEnRxaddr v) (fun _ => .writeReg1 _ _)
    (fun s => s.tmp ||| 1 <<< pipe) fun _ => rfl).comp ((Interruptible.readReg1 _).comp
      (.using (F := fun bs s => s.writeReg (Config.regRxAddr pipe) bs) (fun _ => .writeReg _ _)
        (fun s => s.dbufBytes 0 (pipeAddressLength pipe)) fun _ => rfl))

theorem Interruptible.beginPowerUp : Interruptible State.beginPowerUp :=
  (Interruptible.wait _).comp ((Interruptible.writeReg1 _ _).comp ((Interruptible.select false).comp
    ((Interruptible.enable false).comp (.assign (.assignment (fun _ => rfl) (fun _ => rfl) (fun _ => rfl) (fun _ => rfl)
      fun _ => ⟨rfl, rfl, rfl, rfl⟩)))))

/-! ### Bodies that give a value as well -/

/-- A body with a value that the outside world can do no more to; the value counts only while the command runs. -/
def InterruptiblePair {α : Type} (f : State → State × α) : Prop :=
  ∀ s : State, s.Runs (f s).1 (f s.hush).1 ∧ ((f s).1.busy = true → (f s).2 = (f s.hush).2)

theorem InterruptiblePair.of {α : Type} {g : State → State} (hg : Interruptible g) (a : α) :
    InterruptiblePair fun s => (g s, a) := fun s => ⟨hg s, fun _ => rfl⟩

/-- A body whose value is read from the state it leaves. -/
theorem InterruptiblePair.reading {α : Type} {g : State → State} (hg : Interruptible g) (v : State → α)
    (hv : ∀ s : State, v s.hush = v s) : InterruptiblePair fun s => (g s, v (g s)) := fun s => by
  refine ⟨hg s, fun hb => ?_⟩
  rcases hg s with ⟨hs, he⟩ | ⟨-, -, hh, -⟩ | ⟨-, ha⟩
  · simp only [he, hs, Bool.false_eq_true] at hb
  · simp only [← hh, hv]
  · rw [ha.busy] at hb; exact absurd hb (by decide)

theorem InterruptiblePair.ite {α : Type} {c : State → Bool} {f g : State → State × α} (hf : InterruptiblePair f)
    (hg : InterruptiblePair g) (hc : ∀ s : State, c s.hush = c s) :
    InterruptiblePair fun s => if c s = true then f s else g s := fun s => by
  have h1 := hf s
  have h2 := hg s
  simp only [hc]
  split
  · exact h1
  · exact h2

/-- A body whose value chooses the next. -/
theorem InterruptiblePair.bind {α β : Type} {f : State → State × α} {g : α → State → State × β}
    (hf : InterruptiblePair f) (hg : ∀ a, InterruptiblePair (g a)) : InterruptiblePair fun s => g (f s).2 (f s).1 :=
  fun s => by
    obtain ⟨h1, hv⟩ := hf s
    obtain ⟨h2, hw⟩ := hg (f s).2 (f s).1
    rcases h1 with ⟨hb, he⟩ | ⟨hb, hbt, hh, hgr, hwt⟩ | ⟨hb, ha⟩
    · have hi := h2.idle (by rw [he]; exact hb)
      have hi' : (g (f s).2 (f s).1).1 = s := hi.trans he
      refine ⟨.inl ⟨hb, hi'⟩, fun hb' => ?_⟩
      simp only [hi', hb, Bool.false_eq_true] at hb'
    · simp only [hh, hv hbt] at h2 hw ⊢
      exact ⟨State.Runs.trans (t' := (f s.hush).1) (.inr (.inl ⟨hb, hbt, hh, hgr, hwt⟩)) h2, hw⟩
    · have hi := h2.idle ha.busy
      refine ⟨.inr (.inr ⟨hb, by simpa only [hi] using ha⟩), fun hb' => ?_⟩
      simp only [hi, ha.busy, Bool.false_eq_true] at hb'

theorem InterruptiblePair.comp {α : Type} {f : State → State × α} {g : State → State} (hf : InterruptiblePair f)
    (hg : Interruptible g) : InterruptiblePair fun s => f (g s) :=
  InterruptiblePair.bind (f := fun s => (g s, ())) (g := fun _ s => f s) (.of hg ()) fun _ => hf

/-- The states of a body with a value. -/
theorem InterruptiblePair.fst {α : Type} {f : State → State × α} (hf : InterruptiblePair f) :
    Interruptible fun s => (f s).1 := fun s => (hf s).1

/-- A body that uses a value of the state it starts in. -/
theorem InterruptiblePair.using {α β : Type} {F : α → State → State × β} (hF : ∀ v, InterruptiblePair (F v))
    (g : State → α) (hg : ∀ s : State, g s.hush = g s) : InterruptiblePair fun s => F (g s) s := fun s => by
  have := hF (g s) s
  simpa only [hg] using this

theorem InterruptiblePair.poll (head : SeqPos) (start : Nat) (last : Bool) :
    InterruptiblePair (State.poll head start last) := by
  have hread : Interruptible fun s => (s.assign fun s => { s with upc := head }).readReg1 Config.regStatus :=
    (Interruptible.readReg1 _).comp
      (.assign (.assignment (fun _ => rfl) (fun _ => rfl) (fun _ => rfl) (fun _ => rfl) fun _ => ⟨rfl, rfl, rfl, rfl⟩))
  have hack : InterruptiblePair fun s => (s.clearFlags (s.tmp &&& (Config.maskTxDs ||| Config.maskMaxRt)),
      some SendOutcome.ack) :=
    .of (.using (F := fun m s => s.clearFlags m) (fun _ => .clearFlags _)
      (fun s => s.tmp &&& (Config.maskTxDs ||| Config.maskMaxRt)) fun _ => rfl) _
  have hnack : InterruptiblePair fun s => (s.flushTx.clearFlags (s.tmp &&& (Config.maskTxDs ||| Config.maskMaxRt)),
      some SendOutcome.nack) :=
    .of (.using (F := fun m s => s.flushTx.clearFlags m) (fun m => (Interruptible.clearFlags m).comp .flushTx)
      (fun s => s.tmp &&& (Config.maskTxDs ||| Config.maskMaxRt)) fun _ => rfl) _
  have hlate : InterruptiblePair fun s => ((s.readPollClock start last).flushTx, some SendOutcome.timeout) :=
    .of (Interruptible.flushTx.comp (.readPollClock start last)) _
  have hmiss : InterruptiblePair fun s => ((s.readPollClock start last).wait Config.pollWaitUs, (none : Option SendOutcome)) :=
    .of ((Interruptible.wait _).comp (.readPollClock start last)) _
  have h := InterruptiblePair.comp
    (.ite (c := fun s => txDs s.tmp) hack (.ite (c := fun s => maxRt s.tmp) hnack
      (.ite (c := fun s => last || deadlinePassed (BitVec.ofNat 32 (s.pollTime start last)) s.t0) hlate hmiss
        fun _ => rfl) fun _ => rfl) fun _ => rfl) hread
  exact h

theorem InterruptiblePair.pollLoop (patience : Nat) (head : SeqPos) (start : Nat) :
    InterruptiblePair (State.pollLoop patience head start) := by
  induction patience with
  | zero =>
    exact .bind (f := State.poll head start true) (g := fun o s => (s, o.getD .timeout)) (.poll _ _ _) fun _ => .of .id _
  | succ n ih =>
    have h : InterruptiblePair fun s => (fun (o : Option SendOutcome) (s : State) => (match o with
        | some o => (s, o)
        | none => s.pollLoop n head start : State × SendOutcome)) (s.poll head start false).2 (s.poll head start false).1 := by
      refine InterruptiblePair.bind (f := State.poll head start false) (g := fun (o : Option SendOutcome) (s : State) =>
        (match o with
        | some o => (s, o)
        | none => s.pollLoop n head start : State × SendOutcome)) (.poll _ _ _) fun o => ?_
      cases o with
      | none => exact ih
      | some o => exact .of .id o
    intro s
    have hs := h s
    have he : ∀ s : State, s.pollLoop (n + 1) head start = (match (s.poll head start false).2 with
        | some o => ((s.poll head start false).1, o)
        | none => (s.poll head start false).1.pollLoop n head start : State × SendOutcome) := by
      intro s
      rw [State.pollLoop]
      split <;> simp_all
    rw [he s, he s.hush]
    exact hs

theorem Interruptible.sendPrologue (n : Nat) : Interruptible (State.sendPrologue n) :=
  Interruptible.readT0.comp ((Interruptible.enable false).comp ((Interruptible.wait _).comp
    ((Interruptible.enable true).comp ((Interruptible.writePayload _ n).comp .stopListening))))

theorem Interruptible.sendBody (n : Nat) : Interruptible (State.sendBody n) := by
  have hloop : InterruptiblePair fun s => s.pollLoop (Config.sendPatience s.draws s.history) s.upc s.time :=
    .using (F := fun (p : Nat × SeqPos × Nat) s => s.pollLoop p.1 p.2.1 p.2.2) (fun _ => .pollLoop _ _ _)
      (fun s => (Config.sendPatience s.draws s.history, s.upc, s.time)) fun _ => rfl
  have hend : ∀ o : SendOutcome, InterruptiblePair fun s =>
      (s.assign fun s => { s with lastSendOk := o.ok, linkLed := o.ok, resp := o.word }, ()) := fun o =>
    .of (.assign (f := fun s => { s with lastSendOk := o.ok, linkLed := o.ok, resp := o.word })
      (.assignment (fun _ => rfl) (fun _ => rfl) (fun _ => rfl) (fun _ => rfl) fun _ => ⟨rfl, rfl, rfl, rfl⟩)) ()
  exact ((InterruptiblePair.bind hloop hend).comp (.sendPrologue n)).fst

theorem InterruptiblePair.receive : InterruptiblePair State.receive := by
  have hgot : InterruptiblePair fun s => ((s.readPayload Config.packetLen).clearFlags Config.maskRxDr,
      some ((s.readPayload Config.packetLen).clearFlags Config.maskRxDr).dbufPacket) :=
    .reading ((Interruptible.clearFlags Config.maskRxDr).comp (.readPayload Config.packetLen))
      (fun s => some s.dbufPacket) fun _ => rfl
  have hnone : InterruptiblePair fun s => (s, (none : Option Packet)) := .of .id _
  have h := InterruptiblePair.comp (.ite (c := fun s => rxDr s.tmp) hgot hnone fun _ => rfl)
    (Interruptible.readReg1 Config.regStatus)
  exact h

/-! ### A whole instruction -/

/-- What can become of an instruction, whatever the outside world does: it ends as it does with nothing to come, or a
reset abandons it. -/
def State.Ends (s t t' : State) : Prop :=
  (t.busy = false ∧ t.hush = t' ∧ s.Grows t ∧ s.Waits t) ∨ s.Abandoned t

theorem State.Runs.finish {t' : State} (h : s.start.Runs t t') : s.Ends t.finish t'.finish := by
  rcases h with ⟨hb, -⟩ | ⟨-, hb, hh, hg, hw⟩ | ⟨-, ha⟩
  · exact absurd (show true = false from hb) (by decide)
  · have hb' : t'.busy = true := by rw [← hh]; exact hb
    rw [State.finish, State.finish, State.assign_busy hb, State.assign_busy hb']
    exact .inl ⟨rfl, by rw [← hh]; rfl, ⟨hg.events, hg.answers, hg.time, hg.draws⟩, ⟨hw.quiet, hw.noReset, hw.landed⟩⟩
  · rw [State.finish, State.assign_idle ha.busy]
    exact .inr ⟨ha.registers, ha.events, ha.answers, ha.time, ha.came⟩

theorem State.commandFault_ends (c : FaultCode) : s.Ends (s.commandFault c) (s.hush.commandFault c) := by
  refine .inl ⟨rfl, by cases c <;> rfl, ?_, ?_⟩
  · exact ⟨⟨[], by cases c <;> rfl, by simp⟩, by cases c <;> exact List.suffix_refl _, by cases c <;> exact le_refl _,
      by cases c <;> exact le_refl _⟩
  · exact .of_eq (by cases c <;> rfl) (by cases c <;> rfl)

theorem State.command_ends {body : State → State} (hb : Interruptible body) (check : Option FaultCode) :
    ∃ t t', s.command check body = .next t ∧ s.hush.command check body = .next t' ∧ s.Ends t t' := by
  cases check with
  | some c => exact ⟨_, _, rfl, rfl, State.commandFault_ends c⟩
  | none => exact ⟨_, _, rfl, rfl, State.Runs.finish (hb s.start)⟩

theorem State.sendCommandByte_ends (b : Byte) : s.Ends (s.sendCommandByte b) (s.hush.sendCommandByte b) :=
  State.Runs.finish (Interruptible.commandByte b s.start)

/-- Every instruction gives a next state, and the outside world can do no more to it than that. -/
theorem exec_ends (i : Instr) (s : State) :
    ∃ t t', exec i s = .next t ∧ exec i s.hush = .next t' ∧ s.Ends t t' := by
  have hresp : ∀ v : Word, Interruptible (State.respond fun _ => v) := fun v => .respond fun _ => rfl
  cases i with
  | xfer c => exact State.command_ends ((Interruptible.respond fun _ => rfl).comp (.getTmp c)) s.transportCheck
  | csn a => exact State.command_ends ((hresp 0).comp (.select (level a))) s.transportCheck
  | ce a => exact State.command_ends ((hresp 0).comp (.enable (level a))) s.transportCheck
  | wreg a b =>
    exact State.command_ends ((Interruptible.respond fun _ => rfl).comp
      (.using (F := fun bs s => s.writeReg (register a) bs) (fun _ => .writeReg _ _)
        (fun s => s.dbufBytes 0 (lengthOf b)) fun _ => rfl)) (s.compositeCheck (lengthOf b))
  | rreg a => exact State.command_ends ((Interruptible.respond fun _ => rfl).comp (.readReg1 _)) (s.compositeCheck 0)
  | rregb a b =>
    exact State.command_ends ((Interruptible.respond fun _ => rfl).comp
      (.scope ((Interruptible.getBytes _ _).comp (.commandByte _)))) (s.compositeCheck 0)
  | wpay b c =>
    exact State.command_ends ((Interruptible.respond fun _ => rfl).comp (.writePayload _ _))
      (s.compositeCheck (s.dataLength (lengthOf b)))
  | rpay b => exact State.command_ends ((Interruptible.respond fun _ => rfl).comp (.readPayload _)) (s.compositeCheck 0)
  | flushtx => exact State.command_ends ((Interruptible.respond fun _ => rfl).comp .flushTx) (s.compositeCheck 0)
  | beginLink =>
    exact State.command_ends ((Interruptible.assign (f := fun s => { s with mode := .standby, init := true, resp := 0 })
      (.assignment (fun _ => rfl) (fun _ => rfl) (fun _ => rfl) (fun _ => rfl) fun _ => ⟨rfl, rfl, rfl, rfl⟩)).comp
      ((Interruptible.writeReg1 _ _).comp ((Interruptible.writeReg1 _ _).comp
        ((Interruptible.setPayloadSize _).comp .beginPowerUp)))) none
  | setch c =>
    exact State.command_ends ((hresp _).comp (.writeReg1 _ _)) (s.compositeCheck 0)
  | setps c =>
    exact State.command_ends ((Interruptible.respond fun _ => rfl).comp (.setPayloadSize _)) (s.compositeCheck 0)
  | openw =>
    exact State.command_ends ((hresp 0).comp
      (.using (F := fun bs s => (s.writeReg Config.regTxAddr bs).writeReg (Config.regRxAddr 0) bs)
        (fun bs => (Interruptible.writeReg _ bs).comp (.writeReg _ bs))
        (fun s => s.dbufBytes 0 Config.addrWidth) fun _ => rfl)) (s.compositeCheck Config.addrWidth)
  | openr a =>
    simp only [exec, execOpenr]
    split
    · exact State.command_ends (hresp 0) (s.compositeCheck 0)
    · exact State.command_ends ((hresp 1).comp (.openPipe _)) (s.compositeCheck (pipeAddressLength a.toNat))
  | startl =>
    exact State.command_ends ((hresp 0).comp ((Interruptible.setMode _).comp ((Interruptible.wait _).comp
      ((Interruptible.enable true).comp (.configRmw _ _))))) (s.compositeCheck 0)
  | stopl => exact State.command_ends ((hresp 0).comp .stopListening) (s.compositeCheck 0)
  | frame ax ay trg sw => exact State.command_ends (.frameBody ax ay trg sw) none
  | send b => exact State.command_ends (.sendBody _) (s.compositeCheck (s.dataLength (lengthOf b)))
  | avail => exact State.command_ends ((Interruptible.respond fun _ => rfl).comp (.readReg1 _)) (s.compositeCheck 0)
  | read b =>
    exact State.command_ends (Interruptible.comp
      (.using (F := fun v s => (s.clearFlags Config.maskRxDr).respond fun _ => v)
        (fun v => (hresp v).comp (.clearFlags _)) (fun s => zext s.lastStatus) fun _ => rfl)
      (.readPayload (lengthOf b))) (s.compositeCheck 0)
  | debounce a => exact State.command_ends ((Interruptible.respond fun _ => rfl).comp (.edgeStep _)) none
  | rxcycle a =>
    exact State.command_ends ((Interruptible.respond fun _ => rfl).comp ((Interruptible.wait _).comp
      (InterruptiblePair.fst (InterruptiblePair.bind (g := fun got s => (s.consume got, ()))
        (InterruptiblePair.receive.comp (.edgeStep (level a))) fun got => .of (.consume got) ())))) (s.compositeCheck 0)
  | motormap =>
    exact State.command_ends ((Interruptible.respond fun _ => rfl).comp
      (.using (F := fun p s => s.motorOut p) (fun _ => .motorOut _)
        (fun s => (⟨(s.dbufByte 0).toInt, (s.dbufByte 1).toInt, 0, 0⟩ : Packet)) fun _ => rfl)) (s.dataCheck 2)
  | txcycle ax ay trg sw =>
    exact State.command_ends ((Interruptible.wait _).comp ((Interruptible.sendBody _).comp (.frameBody ax ay trg sw)))
      (s.compositeCheck 0)
  | spiRRegister reg => exact ⟨_, _, rfl, rfl, State.sendCommandByte_ends _⟩
  | spiWRegister reg => exact ⟨_, _, rfl, rfl, State.sendCommandByte_ends _⟩
  | spiRRxPayload => exact ⟨_, _, rfl, rfl, State.sendCommandByte_ends _⟩
  | spiWTxPayload => exact ⟨_, _, rfl, rfl, State.sendCommandByte_ends _⟩
  | spiFlushTx => exact ⟨_, _, rfl, rfl, State.sendCommandByte_ends _⟩

end Sys2Proof.Machine
end

