-- ==== Sys2Proof/Laws/PerInstr.lean ====
section
/-! SUPPORT. The per-instruction family `TableRow`: the encoding of a well-formed instruction is selected by the row of
the opcode table that bears its mnemonic. One lemma per constructor. -/

namespace Sys2Proof.Laws

/-- A word of format G selects a row when its four bytes do, byte by byte. -/
theorem selects_wordG (r : OpcodeRow) (op a b c m0 m1 m2 m3 : Byte) (hm : r.mask = wordOfBytes m0 m1 m2 m3)
    (hp : r.pattern = wordOfBytes 0 0 0 op) (h3 : op &&& m3 = op) (h2 : a &&& m2 = 0) (h1 : b &&& m1 = 0)
    (h0 : c &&& m0 = 0) : r.selects (wordG op a b c) = true := by
  simp only [OpcodeRow.selects, wordG, hm, hp, and_wordOfBytes, h0, h1, h2, h3, decide_true]

/-- A word of format F selects a row whose mask holds OP and the reserved bits. -/
theorem selects_wordF (r : OpcodeRow) (op : Byte) (ax ay : BitVec 10) (trg sw : Bool) (hm : r.mask = 0xFF00000C)
    (hp : r.pattern = wordOfBytes 0 0 0 op) : r.selects (wordF op ax ay trg sw) = true := by
  simp only [OpcodeRow.selects, decide_eq_true_eq, hm, hp]
  apply BitVec.eq_of_getLsbD_eq
  intro i hi
  have hmask : (0xFF00000C : Word) = wordOfBytes 0x0C 0 0 0xFF := by decide
  rw [BitVec.getLsbD_and, hmask, getLsbD_wordOfBytes, getLsbD_wordOfBytes, getLsbD_wordF]
  have hlow : ∀ k, k < 2 → BitVec.getLsbD (0x0C : Byte) k = false := by decide
  have hmid : ∀ k, k < 8 → 4 ≤ k → BitVec.getLsbD (0x0C : Byte) k = false := by decide
  have hhigh : ∀ k, k < 8 → BitVec.getLsbD (0xFF : Byte) k = true := by decide
  have hzero : ∀ k, BitVec.getLsbD (0 : Byte) k = false := fun k => BitVec.getLsbD_zero
  split_ifs <;> try simp only [hzero, Bool.and_false, Bool.false_and]
  all_goals first
    | omega
    | (rw [hlow _ (by omega), Bool.and_false])
    | (rw [hmid _ (by omega) (by omega), Bool.and_false])
    | (rw [hhigh _ (by omega), Bool.and_true])

theorem level_mask (a : Byte) (h : isLevel a = true) : a &&& 0xFE = 0 := by
  revert a; decide

theorem register_mask (a : Byte) (h : isRegister a = true) : a &&& 0xE0 = 0 := by
  revert a; decide

/-- A well-formed instruction's encoding, and the row with its mnemonic that selects it (30_encoding.md R60, R68). -/
def TableRow.Statement (i : Instr) : Prop :=
  i.wellFormed = true →
    (∃ (w : Word) (r : OpcodeRow), encode i = wordBytes w ∧ r ∈ commandTable ∧ r.mnemonic = i.mnemonic ∧
      r.selects w = true) ∨
    ∃ (b : Byte) (r : SpiRow), encode i = [b] ∧ r ∈ spiTable ∧ r.mnemonic = i.mnemonic ∧ r.selects b = true

theorem TableRow.xfer (c : Byte) : TableRow.Statement (.xfer c) := fun _ =>
  .inl ⟨_, ⟨"XFER", 0x01000000, 0xFFFFFF00⟩, rfl, by decide, rfl,
    selects_wordG _ 0x01 0 0 c 0x00 0xFF 0xFF 0xFF (by decide) (by decide) (by decide) (by decide) (by decide)
      (by simp)⟩

theorem TableRow.csn (a : Byte) : TableRow.Statement (.csn a) := fun h =>
  .inl ⟨_, ⟨"CSN", 0x02000000, 0xFFFEFFFF⟩, rfl, by decide, rfl,
    selects_wordG _ 0x02 a 0 0 0xFF 0xFF 0xFE 0xFF (by decide) (by decide) (by decide) (level_mask _ h) (by decide)
      (by decide)⟩

theorem TableRow.ce (a : Byte) : TableRow.Statement (.ce a) := fun h =>
  .inl ⟨_, ⟨"CE", 0x03000000, 0xFFFEFFFF⟩, rfl, by decide, rfl,
    selects_wordG _ 0x03 a 0 0 0xFF 0xFF 0xFE 0xFF (by decide) (by decide) (by decide) (level_mask _ h) (by decide)
      (by decide)⟩

theorem TableRow.wreg (a b : Byte) : TableRow.Statement (.wreg a b) := fun h =>
  .inl ⟨_, ⟨"WREG", 0x10000000, 0xFFE000FF⟩, rfl, by decide, rfl,
    selects_wordG _ 0x10 a b 0 0xFF 0x00 0xE0 0xFF (by decide) (by decide) (by decide) (register_mask _ h) (by simp)
      (by decide)⟩

theorem TableRow.rreg (a : Byte) : TableRow.Statement (.rreg a) := fun h =>
  .inl ⟨_, ⟨"RREG", 0x11000000, 0xFFE0FFFF⟩, rfl, by decide, rfl,
    selects_wordG _ 0x11 a 0 0 0xFF 0xFF 0xE0 0xFF (by decide) (by decide) (by decide) (register_mask _ h) (by decide)
      (by decide)⟩

theorem TableRow.rregb (a b : Byte) : TableRow.Statement (.rregb a b) := fun h =>
  .inl ⟨_, ⟨"RREGB", 0x12000000, 0xFFE000FF⟩, rfl, by decide, rfl,
    selects_wordG _ 0x12 a b 0 0xFF 0x00 0xE0 0xFF (by decide) (by decide) (by decide) (register_mask _ h) (by simp)
      (by decide)⟩

theorem TableRow.wpay (b c : Byte) : TableRow.Statement (.wpay b c) := fun _ =>
  .inl ⟨_, ⟨"WPAY", 0x13000000, 0xFFFF0000⟩, rfl, by decide, rfl,
    selects_wordG _ 0x13 0 b c 0x00 0x00 0xFF 0xFF (by decide) (by decide) (by decide) (by decide) (by simp)
      (by simp)⟩

theorem TableRow.rpay (b : Byte) : TableRow.Statement (.rpay b) := fun _ =>
  .inl ⟨_, ⟨"RPAY", 0x14000000, 0xFFFF00FF⟩, rfl, by decide, rfl,
    selects_wordG _ 0x14 0 b 0 0xFF 0x00 0xFF 0xFF (by decide) (by decide) (by decide) (by decide) (by simp)
      (by decide)⟩

theorem TableRow.flushtx : TableRow.Statement (.flushtx) := fun _ =>
  .inl ⟨_, ⟨"FLUSHTX", 0x15000000, 0xFFFFFFFF⟩, rfl, by decide, rfl,
    selects_wordG _ 0x15 0 0 0 0xFF 0xFF 0xFF 0xFF (by decide) (by decide) (by decide) (by decide) (by decide)
      (by decide)⟩

theorem TableRow.beginLink : TableRow.Statement (.beginLink) := fun _ =>
  .inl ⟨_, ⟨"BEGIN", 0x20000000, 0xFFFFFFFF⟩, rfl, by decide, rfl,
    selects_wordG _ 0x20 0 0 0 0xFF 0xFF 0xFF 0xFF (by decide) (by decide) (by decide) (by decide) (by decide)
      (by decide)⟩

theorem TableRow.setch (c : Byte) : TableRow.Statement (.setch c) := fun _ =>
  .inl ⟨_, ⟨"SETCH", 0x21000000, 0xFFFFFF00⟩, rfl, by decide, rfl,
    selects_wordG _ 0x21 0 0 c 0x00 0xFF 0xFF 0xFF (by decide) (by decide) (by decide) (by decide) (by decide)
      (by simp)⟩

theorem TableRow.setps (c : Byte) : TableRow.Statement (.setps c) := fun _ =>
  .inl ⟨_, ⟨"SETPS", 0x22000000, 0xFFFFFF00⟩, rfl, by decide, rfl,
    selects_wordG _ 0x22 0 0 c 0x00 0xFF 0xFF 0xFF (by decide) (by decide) (by decide) (by decide) (by decide)
      (by simp)⟩

theorem TableRow.openw : TableRow.Statement (.openw) := fun _ =>
  .inl ⟨_, ⟨"OPENW", 0x23000000, 0xFFFFFFFF⟩, rfl, by decide, rfl,
    selects_wordG _ 0x23 0 0 0 0xFF 0xFF 0xFF 0xFF (by decide) (by decide) (by decide) (by decide) (by decide)
      (by decide)⟩

theorem TableRow.openr (a : Byte) : TableRow.Statement (.openr a) := fun _ =>
  .inl ⟨_, ⟨"OPENR", 0x24000000, 0xFF00FFFF⟩, rfl, by decide, rfl,
    selects_wordG _ 0x24 a 0 0 0xFF 0xFF 0x00 0xFF (by decide) (by decide) (by decide) (by simp) (by decide)
      (by decide)⟩

theorem TableRow.startl : TableRow.Statement (.startl) := fun _ =>
  .inl ⟨_, ⟨"STARTL", 0x25000000, 0xFFFFFFFF⟩, rfl, by decide, rfl,
    selects_wordG _ 0x25 0 0 0 0xFF 0xFF 0xFF 0xFF (by decide) (by decide) (by decide) (by decide) (by decide)
      (by decide)⟩

theorem TableRow.stopl : TableRow.Statement (.stopl) := fun _ =>
  .inl ⟨_, ⟨"STOPL", 0x26000000, 0xFFFFFFFF⟩, rfl, by decide, rfl,
    selects_wordG _ 0x26 0 0 0 0xFF 0xFF 0xFF 0xFF (by decide) (by decide) (by decide) (by decide) (by decide)
      (by decide)⟩

theorem TableRow.frame (ax ay : BitVec 10) (trg sw : Bool) : TableRow.Statement (.frame ax ay trg sw) := fun _ =>
  .inl ⟨_, ⟨"FRAME", 0x30000000, 0xFF00000C⟩, rfl, by decide, rfl, selects_wordF _ _ _ _ _ _ rfl (by decide)⟩

theorem TableRow.send (b : Byte) : TableRow.Statement (.send b) := fun _ =>
  .inl ⟨_, ⟨"SEND", 0x31000000, 0xFFFF00FF⟩, rfl, by decide, rfl,
    selects_wordG _ 0x31 0 b 0 0xFF 0x00 0xFF 0xFF (by decide) (by decide) (by decide) (by decide) (by simp)
      (by decide)⟩

theorem TableRow.avail : TableRow.Statement (.avail) := fun _ =>
  .inl ⟨_, ⟨"AVAIL", 0x32000000, 0xFFFFFFFF⟩, rfl, by decide, rfl,
    selects_wordG _ 0x32 0 0 0 0xFF 0xFF 0xFF 0xFF (by decide) (by decide) (by decide) (by decide) (by decide)
      (by decide)⟩

theorem TableRow.read (b : Byte) : TableRow.Statement (.read b) := fun _ =>
  .inl ⟨_, ⟨"READ", 0x33000000, 0xFFFF00FF⟩, rfl, by decide, rfl,
    selects_wordG _ 0x33 0 b 0 0xFF 0x00 0xFF 0xFF (by decide) (by decide) (by decide) (by decide) (by simp)
      (by decide)⟩

theorem TableRow.debounce (a : Byte) : TableRow.Statement (.debounce a) := fun h =>
  .inl ⟨_, ⟨"DEBOUNCE", 0x40000000, 0xFFFEFFFF⟩, rfl, by decide, rfl,
    selects_wordG _ 0x40 a 0 0 0xFF 0xFF 0xFE 0xFF (by decide) (by decide) (by decide) (level_mask _ h) (by decide)
      (by decide)⟩

theorem TableRow.rxcycle (a : Byte) : TableRow.Statement (.rxcycle a) := fun h =>
  .inl ⟨_, ⟨"RXCYCLE", 0x41000000, 0xFFFEFFFF⟩, rfl, by decide, rfl,
    selects_wordG _ 0x41 a 0 0 0xFF 0xFF 0xFE 0xFF (by decide) (by decide) (by decide) (level_mask _ h) (by decide)
      (by decide)⟩

theorem TableRow.motormap : TableRow.Statement (.motormap) := fun _ =>
  .inl ⟨_, ⟨"MOTORMAP", 0x42000000, 0xFFFFFFFF⟩, rfl, by decide, rfl,
    selects_wordG _ 0x42 0 0 0 0xFF 0xFF 0xFF 0xFF (by decide) (by decide) (by decide) (by decide) (by decide)
      (by decide)⟩

theorem TableRow.txcycle (ax ay : BitVec 10) (trg sw : Bool) : TableRow.Statement (.txcycle ax ay trg sw) := fun _ =>
  .inl ⟨_, ⟨"TXCYCLE", 0x43000000, 0xFF00000C⟩, rfl, by decide, rfl, selects_wordF _ _ _ _ _ _ rfl (by decide)⟩

theorem TableRow.spiRRegister (reg : Byte) : TableRow.Statement (.spiRRegister reg) := fun h =>
  .inr ⟨_, ⟨"SPI_R_REGISTER", 0x00, 0xE0⟩, rfl, by decide, rfl, by revert reg; decide⟩

theorem TableRow.spiWRegister (reg : Byte) : TableRow.Statement (.spiWRegister reg) := fun h =>
  .inr ⟨_, ⟨"SPI_W_REGISTER", 0x20, 0xE0⟩, rfl, by decide, rfl, by revert reg; decide⟩

theorem TableRow.spiRRxPayload : TableRow.Statement .spiRRxPayload := fun _ =>
  .inr ⟨_, ⟨"SPI_R_RX_PAYLOAD", 0x61, 0xFF⟩, rfl, by decide, rfl, by decide⟩

theorem TableRow.spiWTxPayload : TableRow.Statement .spiWTxPayload := fun _ =>
  .inr ⟨_, ⟨"SPI_W_TX_PAYLOAD", 0xA0, 0xFF⟩, rfl, by decide, rfl, by decide⟩

theorem TableRow.spiFlushTx : TableRow.Statement .spiFlushTx := fun _ =>
  .inr ⟨_, ⟨"SPI_FLUSH_TX", 0xE1, 0xFF⟩, rfl, by decide, rfl, by decide⟩

end Sys2Proof.Laws
end

