-- ==== Sys2Proof/Tests/Slice0.lean ====
section
/-! SUPPORT. Tests of the model on small states, their expected results from spec/95_test_vectors.md (V<n>, W<n>) or
worked out by hand from the rule named, and a witness that the hypotheses of each statement can be met. -/

namespace Sys2Proof.Tests

open Sys2Proof Sys2Proof.Machine

/-! ### Small states and what is read from a step -/

/-- A ready block with `PAYLOAD_SIZE` = 4 and the bytes 00 64 01 00 in DBUF. -/
def ready : State :=
  { State.reset with
    mode := .idle, init := true, pinsDriven := true, payloadSize := 4, dbuf := [(0, 0x00), (1, 0x64), (2, 0x01), (3, 0x00)] }

/-- The same with a raw scope open. -/
def open' : State := { ready with csn := false }

/-- The state an instruction leaves. -/
def after (i : Instr) (s : State) : State :=
  match exec i s with
  | .next t => t
  | .fault _ | .refused _ => s

/-- The bytes on MOSI since the last reset, oldest first. -/
def mosi (s : State) : List Byte := s.trace.filterMap fun
  | .xfer b => some b
  | .csn _ | .ce _ | .wait _ | .now _ | .reset => none

/-- The state `n` steps after `s`. -/
def steps : Nat → State → State
  | 0, s => s
  | n + 1, s => match step s with
    | .next t => steps n t
    | .fault _ | .refused _ => s

/-- The host's accesses as coming actions. -/
def host (as : List HostAccess) : List Input := as.map fun a => ⟨0, .access a⟩

/-! ### Ill-formed terms are refused (30_encoding.md R60) -/

theorem test_illformed_csn : (Instr.wellFormed (.csn 2)) = false := by decide
theorem test_illformed_ce : (Instr.wellFormed (.ce 2)) = false := by decide
theorem test_illformed_debounce : (Instr.wellFormed (.debounce 2)) = false := by decide
theorem test_illformed_rxcycle : (Instr.wellFormed (.rxcycle 2)) = false := by decide
theorem test_illformed_wreg : (Instr.wellFormed (.wreg 0x20 1)) = false := by decide
theorem test_illformed_rreg : (Instr.wellFormed (.rreg 0x20)) = false := by decide
theorem test_illformed_rregb : (Instr.wellFormed (.rregb 0xFF 0)) = false := by decide
theorem test_illformed_spi_r_register : (Instr.wellFormed (.spiRRegister 0x20)) = false := by decide
theorem test_illformed_spi_w_register : (Instr.wellFormed (.spiWRegister 0x20)) = false := by decide

/-! ### Words written out from the encoding tables (30_encoding.md R57 to R60, R68) -/

theorem test_decode_xfer : decode (wordBytes 0x01000007) = .ok (.xfer 0x07) := by decide
theorem test_decode_csn : decode (wordBytes 0x02010000) = .ok (.csn 1) := by decide
theorem test_decode_ce : decode (wordBytes 0x03010000) = .ok (.ce 1) := by decide
theorem test_decode_wreg : decode (wordBytes 0x10050100) = .ok (.wreg 0x05 1) := by decide
theorem test_decode_rreg : decode (wordBytes 0x11070000) = .ok (.rreg 0x07) := by decide
theorem test_decode_rregb : decode (wordBytes 0x12100500) = .ok (.rregb 0x10 5) := by decide
theorem test_decode_wpay : decode (wordBytes 0x130004A0) = .ok (.wpay 4 0xA0) := by decide
theorem test_decode_rpay : decode (wordBytes 0x14000400) = .ok (.rpay 4) := by decide
theorem test_decode_flushtx : decode (wordBytes 0x15000000) = .ok (.flushtx) := by decide
theorem test_decode_begin : decode (wordBytes 0x20000000) = .ok (.beginLink) := by decide
theorem test_decode_setch : decode (wordBytes 0x210000C8) = .ok (.setch 200) := by decide
theorem test_decode_setps : decode (wordBytes 0x22000028) = .ok (.setps 40) := by decide
theorem test_decode_openw : decode (wordBytes 0x23000000) = .ok (.openw) := by decide
theorem test_decode_openr : decode (wordBytes 0x24060000) = .ok (.openr 6) := by decide
theorem test_decode_startl : decode (wordBytes 0x25000000) = .ok (.startl) := by decide
theorem test_decode_stopl : decode (wordBytes 0x26000000) = .ok (.stopl) := by decide
theorem test_decode_frame : decode (wordBytes 0x30C00C82) = .ok (.frame 768 200 true false) := by decide
theorem test_decode_send : decode (wordBytes 0x31000400) = .ok (.send 4) := by decide
theorem test_decode_avail : decode (wordBytes 0x32000000) = .ok (.avail) := by decide
theorem test_decode_read : decode (wordBytes 0x33000400) = .ok (.read 4) := by decide
theorem test_decode_debounce : decode (wordBytes 0x40010000) = .ok (.debounce 1) := by decide
theorem test_decode_rxcycle : decode (wordBytes 0x41010000) = .ok (.rxcycle 1) := by decide
theorem test_decode_motormap : decode (wordBytes 0x42000000) = .ok (.motormap) := by decide
theorem test_decode_txcycle : decode (wordBytes 0x43802003) = .ok (.txcycle 512 512 true true) := by decide
theorem test_decode_spi_r_register : decode [0x07] = .ok (.spiRRegister 0x07) := by decide
theorem test_decode_spi_w_register : decode [0x25] = .ok (.spiWRegister 0x05) := by decide
theorem test_decode_spi_r_rx_payload : decode [0x61] = .ok (.spiRRxPayload) := by decide
theorem test_decode_spi_w_tx_payload : decode [0xA0] = .ok (.spiWTxPayload) := by decide
theorem test_decode_spi_flush_tx : decode [0xE1] = .ok (.spiFlushTx) := by decide

/-- Byte order of a word (20_memory.md R46). -/
theorem test_word_bytes : wordBytes 0x44332211 = [0x11, 0x22, 0x33, 0x44] := by decide
theorem test_table_word : decodeTableWord 32 0x30AF12C1 = some (.frame 700 300 false true) := by decide
theorem test_table_byte : decodeTableWord 8 0xE1 = some .spiFlushTx := by decide
/-- The words of V6, V7, V13, V15, V41 and the all-zero word are illegal. -/
theorem test_decode_illegal :
    ([0x00000000, 0x02020000, 0x01000107, 0x10200100, 0x11070100, 0x30000004, 0x40020000, 0xFF000000] : List Word).all
      (fun w => decodeTableWord 32 w.toNat == none) = true := by decide
theorem test_decode_not_spi : decode [0x62] = .error (.notAnSpiCommand 0x62) := by decide
theorem test_decode_length : decode [0, 0] = .error (.badLength 2) := by decide

/-! ### Transport -/

/-- V1. -/
theorem test_xfer_not_init : (after (.xfer 7) State.reset).resp = 0x80000002 := by decide
/-- V3, V9: the exchange; LAST_STATUS is not written. -/
theorem test_xfer : (mosi (after (.xfer 0x07) open'), (after (.xfer 0x07) open').lastStatus) = ([0x07], 0) := by decide
/-- V2. -/
theorem test_csn_assert :
    ((after (.csn 1) ready).trace, (after (.csn 1) ready).csn) = ([.csn false, .wait 1], false) := by decide
/-- V5. -/
theorem test_csn_deassert :
    ((after (.csn 0) open').trace, (after (.csn 0) open').csn) = ([.csn true, .wait 1], true) := by decide
/-- V8. -/
theorem test_ce :
    ((after (.ce 1) ready).trace, (after (.ce 1) ready).ce, (after (.ce 1) ready).mode) = ([.ce true], true, .idle) := by
  decide

/-! ### Register access -/

/-- V10, with `dbuf[0]` = 00. -/
theorem test_wreg : (after (.wreg 0x05 1) ready).trace =
    [.csn false, .wait 1, .xfer 0x25, .xfer 0x00, .csn true, .wait 1] := by decide
/-- V12: 40 is clamped to 32, and `dbuf[4]` is not valid. -/
theorem test_wreg_undef : (after (.wreg 0x10 40) ready).resp = 0x80000003 := by decide
/-- V14. -/
theorem test_rreg : (after (.rreg 0x07) ready).trace =
    [.csn false, .wait 1, .xfer 0x07, .xfer 0xFF, .csn true, .wait 1] := by decide
/-- V16: five bytes become valid. -/
theorem test_rregb : (mosi (after (.rregb 0x10 5) ready), (after (.rregb 0x10 5) ready).dbuf.validTo 5,
    (after (.rregb 0x10 5) ready).dbuf.validTo 6) = ([0x10, 0xFF, 0xFF, 0xFF, 0xFF, 0xFF], true, false) := by decide
/-- V18: 40 bytes of which `PAYLOAD_SIZE` are sent. -/
theorem test_wpay : mosi (after (.wpay 40 0xA0) ready) = [0xA0, 0x00, 0x64, 0x01, 0x00] := by decide
/-- V19: pad bytes only. -/
theorem test_wpay_pad : mosi (after (.wpay 0 0xA0) ready) = [0xA0, 0x00, 0x00, 0x00, 0x00] := by decide
/-- V21: nothing beyond `PAYLOAD_SIZE` is received. -/
theorem test_rpay : (mosi (after (.rpay 8) ready), (after (.rpay 8) ready).dbuf.validTo 5) =
    ([0x61, 0xFF, 0xFF, 0xFF, 0xFF], false) := by decide
/-- V22 with `PAYLOAD_SIZE` = 4: `dbuf[2]` is drained into nothing. -/
theorem test_rpay_drain : (mosi (after (.rpay 2) ready), (after (.rpay 2) ready).dbuf.read 2) =
    ([0x61, 0xFF, 0xFF, 0xFF, 0xFF], some 0x01) := by decide
/-- V23. -/
theorem test_flushtx : (after .flushtx ready).trace = [.csn false, .wait 1, .xfer 0xE1, .csn true, .wait 1] := by
  decide
/-- V24. -/
theorem test_flushtx_bus_open : ((after .flushtx open').resp, (after .flushtx open').fBusOpen, (after .flushtx open').trace) =
    (0x80000004, true, []) := by decide

/-! ### Transceiver control -/

/-- V25: the bytes. -/
theorem test_begin : mosi (after .beginLink State.reset) =
    [0x20, 0x0A, 0x31, 0x20, 0x32, 0x20, 0x33, 0x20, 0x34, 0x20, 0x35, 0x20, 0x36, 0x20, 0x21, 0x01, 0x22, 0x01] := by
  decide +kernel
/-- V25: with the status drawn as 0E. -/
theorem test_begin_bstat : ({ after .beginLink State.reset with lastStatus := 0x0E } : State).bstat = 0x200E0055 := by
  decide +kernel
/-- V27. -/
theorem test_setch : (mosi (after (.setch 126) ready), (after (.setch 126) ready).resp) = ([0x25, 0x7D], 125) := by decide
/-- V27. -/
theorem test_setch_zero : mosi (after (.setch 0) ready) = [0x25, 0x00] := by decide
/-- V28. -/
theorem test_setps : (mosi (after (.setps 0) ready), (after (.setps 0) ready).payloadSize, (after (.setps 0) ready).resp) =
    ([0x31, 1, 0x32, 1, 0x33, 1, 0x34, 1, 0x35, 1, 0x36, 1], 1, 1) := by decide
/-- V28. -/
theorem test_setps_clamp : ((after (.setps 255) ready).payloadSize, (after (.setps 255) ready).resp) = (32, 32) := by
  decide
/-- V32: the fifth address byte is not valid. -/
theorem test_openw_undef : ((after .openw ready).resp, (after .openw ready).fUndefData) = (0x80000003, true) := by decide
/-- W8. -/
theorem test_openw : mosi (after .openw { ready with dbuf := State.reset.dbuf.writeAll 0 Config.linkAddress }) =
    [0x30, 0x30, 0x30, 0x30, 0x30, 0x31, 0x2A, 0x30, 0x30, 0x30, 0x30, 0x31] := by decide
/-- V29. -/
theorem test_openr_ignored : ((after (.openr 6) ready).resp, (after (.openr 6) ready).trace) = (0, []) := by decide
/-- V33: pipe 2 sends one address byte, then reads EN_RXADDR. -/
theorem test_openr : (mosi (after (.openr 2) ready)).take 5 = [0x2C, 0x00, 0x02, 0xFF, 0x22] := by decide +kernel
/-- V34, but for the value drawn. -/
theorem test_startl : ((mosi (after .startl ready)).take 3, (after .startl ready).history.take 2, (after .startl ready).mode) =
    ([0x00, 0xFF, 0x20], [.wait 130, .ce true], .listening) := by decide
/-- V35, but for the value drawn. -/
theorem test_stopl : ((after .stopl ready).trace.head?, (after .stopl ready).history.head?, (after .stopl ready).mode) =
    (some (.ce false), some (.wait 130), .idle) := by decide
/-- V36. -/
theorem test_startl_not_init : (after .startl State.reset).resp = 0x80000002 := by decide

/-! ### Packet framer, with the axis values free -/

/-- V42: FRAME needs no BEGIN; the pins are inverted (44_packet_framer.md R104). -/
theorem test_frame : ((after (.frame 512 512 true true) State.reset).dbuf.read 2,
    (after (.frame 512 512 true true) State.reset).dbuf.read 3, (after (.frame 512 512 true true) State.reset).trace) =
    (some 0, some 0, []) := by decide
/-- V39: SW = 0 gives sw = 1, TRG = 1 gives trigger = 0. -/
theorem test_frame_pins : ((after (.frame 768 200 true false) State.reset).dbuf.read 2,
    (after (.frame 768 200 true false) State.reset).dbuf.read 3) = (some 1, some 0) := by decide
/-- W3. -/
theorem test_packet_encode : (Packet.mk 0 (-100) 1 0).encode = [0x00, 0x9C, 0x01, 0x00] := by decide
/-- W3. -/
theorem test_packet_decode : Packet.decode 0x80 0x7F 0x01 0x01 = ⟨-128, 127, 1, 1⟩ := by decide

/-! ### Ack sequencer, with the draws free -/

/-- V50. -/
theorem test_send_undef : (after (.send 4) { ready with dbuf := [], payloadSize := 32 }).resp = 0x80000003 := by decide
/-- R110, R111: the payload that SEND pushes after the CONFIG scopes. -/
theorem test_send_payload : (mosi (ready.start.sendPrologue 4)).drop 4 = [0xA0, 0x00, 0x64, 0x01, 0x00] := by decide
/-- R116: the three responses. -/
theorem test_send_words : [SendOutcome.ack, .nack, .timeout].map SendOutcome.word = [0x001, 0x100, 0x200] := by decide
/-- V43, V44: bit 5 of a STATUS byte is the ack flag, bit 4 the nack flag (30_encoding.md R66). -/
theorem test_status_flags : ([0x2E, 0x1E, 0x0E, 0xCF] : List Byte).map (fun v => (txDs v, maxRt v)) =
    [(true, false), (false, true), (false, false), (false, false)] := by decide
/-- V46, V47: the deadline, across a clock wrap too. -/
theorem test_deadline : (deadlinePassed 1049 1000, deadlinePassed 1050 1000, deadlinePassed 0x10 0xFFFFFFF0,
    deadlinePassed 0x22 0xFFFFFFF0) = (false, true, false, true) := by decide
/-- V53: the status poll, and RX_DR of a data byte. -/
theorem test_avail : (mosi (after .avail ready), [0x40, 0x4E, 0x0E, 0xBF].map rxDr) =
    ([0x07, 0xFF], [true, true, false, false]) := by decide
/-- V54. -/
theorem test_read : mosi (after (.read 4) ready) = [0x61, 0xFF, 0xFF, 0xFF, 0xFF, 0x27, 0x40] := by decide
/-- V55. -/
theorem test_read_not_init : (after (.read 4) State.reset).resp = 0x80000002 := by decide

/-! ### Link consumer -/

/-- W5. -/
theorem test_debounce_edges :
    ([false, false, true, true, false, true].foldl (fun (p : State × List Word) b =>
      (after (debounceOf b) p.1, p.2 ++ [(after (debounceOf b) p.1).resp])) (State.reset, [])).2 = [0, 0, 1, 1, 1, 0] := by
  decide

/-- V58, V60, V62, V63, V64, V66. -/
theorem test_motormap : ([(0x00, 0x64), (0x00, 0x80), (0x64, 0x32), (0x65, 0x32), (0x9B, 0x32), (0x80, 0x80)] : List (Byte × Byte)).map
    (fun p => (after .motormap { State.reset with dbuf := [(0, p.1), (1, p.2)] }).resp) =
    [0x0001C8C8, 0x0000FFFF, 0x00016464, 0x00010064, 0x00016400, 0x0000FF00] := by decide
/-- V68. -/
theorem test_motormap_undef : ((after .motormap State.reset).resp, (after .motormap State.reset).motor) =
    (0x80000003, 0x00010000) := by decide
/-- V70: the check comes before the edge detector. -/
theorem test_rxcycle_not_init : ((after (.rxcycle 1) State.reset).resp, (after (.rxcycle 1) State.reset).prevPressed) =
    (0x80000002, false) := by decide
/-- W7: a cycle without data after one that drove the motors (46_link_consumer.md R121, R128). -/
theorem test_no_signal : (({ ready with pwmL := 254, pwmR := 254 } : State).start.consume none).motor = 0x00010000 := by
  decide
/-- V71: the check comes before FRAME. -/
theorem test_txcycle_bus_open : ((after (.txcycle 512 512 true true) open').resp,
    (after (.txcycle 512 512 true true) open').dbuf == open'.dbuf) = (0x80000004, true) := by decide

/-! ### SPI command bytes -/

theorem test_spi_r_register : (after (.spiRRegister 0x07) ready).trace = [.xfer 0x07] := by decide
theorem test_spi_w_register : (after (.spiWRegister 0x07) ready).trace = [.xfer 0x27] := by decide
theorem test_spi_r_rx_payload : (after .spiRRxPayload ready).trace = [.xfer 0x61] := by decide
theorem test_spi_w_tx_payload : (after .spiWTxPayload ready).trace = [.xfer 0xA0] := by decide
theorem test_spi_flush_tx : (after .spiFlushTx ready).trace = [.xfer 0xE1] := by decide

/-! ### Host port, faults, reset, a step -/

/-- 10_state.md R21, R14: the reset values the host reads. -/
theorem test_reset_registers : [State.reset.bstat, State.reset.lastPkt, State.reset.motor, State.reset.link] =
    [0x20000010, 0x01010000, 0x00010000, 0] := by decide
theorem test_reset_memory_wf : State.reset.dbuf.wf = true := by decide
/-- V72: two steps, the CMD write and the command. -/
theorem test_illegal_word :
    ((steps 2 { State.reset with inputs := host [.write32 0x00 0] }).resp,
      (steps 2 { State.reset with inputs := host [.write32 0x00 0] }).fIllegal) = (0x80000001, true) := by decide
/-- V73, V74, V75. -/
theorem test_host_illegal : [HostAccess.read8 0x08, .write32 0x04 0, .write32 0x21 0, .read16 0x20, .read32 0x18].map
    (fun a => ((State.reset.hostAccess a).fIllegal, (State.reset.hostAccess a).resp)) = List.replicate 5 (true, 0) := by decide
/-- V76, V77. -/
theorem test_host_dbuf : (steps 2 { State.reset with inputs := host [.write32 0x24 0x44332211, .read32 0x24] }).reads =
    [0x44332211] := by decide
theorem test_host_dbuf_bytes : (State.reset.hostAccess (.write32 0x24 0x44332211)).dbuf =
    [(4, 0x11), (5, 0x22), (6, 0x33), (7, 0x44)] := by decide
/-- V78. -/
theorem test_host_undef : (State.reset.hostAccess (.read8 0x20)).fUndefData = true := by decide
/-- V80, V81: the order of the checks. -/
theorem test_priority : ((after (.wreg 5 1) State.reset).resp, (after (.wreg 5 1) { open' with dbuf := [] }).resp) =
    (0x80000002, 0x80000004) := by decide
/-- V82: a fault bit is sticky. -/
theorem test_sticky : ((after (.frame 512 512 true true) { State.reset with fIllegal := true }).fIllegal) = true := by decide
/-- V83: an access is held while a command runs, then made. -/
theorem test_held : ((steps 2 { State.reset with inputs := host [.write32 0x00 0x40010000, .read32 0x04] }).reads,
    (steps 3 { State.reset with inputs := host [.write32 0x00 0x40010000, .read32 0x04] }).reads) = ([], [1]) := by decide
/-- 10_state.md R16: BSTAT is read inside a command (BUSY = 1, CSN = 0), after one step. -/
theorem test_bstat_inside : ((after .flushtx { ready with inputs := [⟨1, .access (.read32 0x08)⟩] }).reads.map
    fun w => (w.getLsbD 3, w.getLsbD 4)) = [(true, false)] := by decide
/-- 10_state.md R16: two reads, after the first and after the third step; the command ends as it does without them. -/
theorem test_bstat_twice : ((after .flushtx { ready with inputs := [⟨1, .access (.read32 0x08)⟩, ⟨2, .access (.read32 0x08)⟩] }).reads.length,
    mosi (after .flushtx { ready with inputs := [⟨1, .access (.read32 0x08)⟩, ⟨2, .access (.read32 0x08)⟩] })) =
    (2, [0xE1]) := by decide
/-- 70_reset_and_hazards.md R148: a reset after one step of a command. -/
theorem test_reset_inside : ((after .flushtx { ready with inputs := [⟨1, .reset⟩] }).history,
    (after .flushtx { ready with inputs := [⟨1, .reset⟩] }).init) = ([.reset, .csn false], false) := by decide
theorem test_fetch_word : steps 1 (State.reset.withFetchWord 32 0x40010000) =
    { State.reset with cmd := 0x40010000, cmdl := 0x40010000, resp := 1, armed := true, prevPressed := true } := by decide
theorem test_fetch_byte : (steps 1 (State.reset.withFetchWord 8 0xE1)).trace = [.xfer 0xE1] := by decide


/-! ### The hypotheses of the statements can be met: boundary values of each clause -/

/-- The ready block with all 32 bytes valid. -/
def full : State := { ready with payloadSize := 32, dbuf := Memory.writeAll [] 0 (List.replicate 32 0xA5) }

/-- The ready block with a command latched. -/
def running (w : Word) (inputs : List Input) : State :=
  { full with busy := true, upc := .step 0, cmd := w, cmdl := w, inputs := inputs }

theorem test_witness_DecodeOfEncode :
    [Instr.csn 1, .rreg 0x1F, .wreg 0 0xFF, .frame 1023 0 true false, .spiWRegister 0x1F].all Instr.wellFormed = true := by
  decide
theorem test_witness_EncodeOfDecode : decode (wordBytes 0x111F0000) = .ok (.rreg 0x1F) ∧
    decode [0x3F] = .ok (.spiWRegister 0x1F) := by decide
theorem test_witness_RowSelectsInstruction : ∃ r ∈ commandTable, r.selects 0x121FFF00 = true := by decide
theorem test_witness_IllegalWordFaults : (running 0x00FFFFFF []).sequencerTurn = true ∧
    (running 0x00FFFFFF []).upc = .step 0 ∧ ∀ r ∈ commandTable, r.selects (running 0x00FFFFFF []).cmdl = false := by
  decide
theorem test_witness_IllegalWordFaults_field : ∀ r ∈ commandTable, r.selects 0x11200000 = false := by decide
theorem test_witness_StepRunsDecodedInstruction :
    (running 0x15000000 [⟨1, .reset⟩]).sequencerTurn = true ∧
      decode (running 0x15000000 [⟨1, .reset⟩]).fetchBytes = .ok .flushtx := by decide
theorem test_witness_StepRunsDecodedInstruction_idle : State.busy { ready with inputs := [⟨3, .access (.write8 0x20 0x77)⟩] } = false ∧
    ∃ t : State, step { ready with inputs := [⟨3, .access (.write8 0x20 0x77)⟩] } = .next t ∧
      t.dbuf.read 0 = some 0x77 ∧ t.inputs = [] := ⟨rfl, _, rfl, by decide, rfl⟩
theorem test_witness_PlacedInstructionRuns : (Instr.csn 1).wellFormed = true ∧
    encode (.csn 1) = wordBytes 0x02010000 ∧ (Instr.spiRRegister 0x1F).wellFormed = true ∧
    encode (.spiRRegister 0x1F) = [0x1F] := by decide

/-- The boundary offsets of each clause, in the order of the clauses. -/
theorem test_witness_HostAccessLegality : (0x1F : BitVec 6).toNat < 32 ∧ (0x00 : BitVec 6).toNat < 32 ∧
    (0x3F : BitVec 6).toNat % 4 ≠ 0 ∧ ((0x1C : BitVec 6).toNat < 32 ∧ (0x1C : BitVec 6).toNat ≠ 0) ∧
    ((0x04 : BitVec 6).toNat < 32 ∧ (0x04 : BitVec 6).toNat ≠ 0) ∧ (0x18 : BitVec 6).toNat = 0x18 ∧
    (0x1C : BitVec 6).toNat = 0x1C ∧ (32 ≤ (0x20 : BitVec 6).toNat ∧ (0x20 : BitVec 6).toNat % 4 = 0) ∧
    (32 ≤ (0x3C : BitVec 6).toNat ∧ (0x3C : BitVec 6).toNat % 4 = 0) ∧
    (∀ k, k < 4 → full.dbuf.read ((0x3C : BitVec 6).toNat - 32 + k) = some ((0xA5A5A5A5 : Word).extractLsb' (8 * k) 8)) ∧
    32 ≤ (0x3F : BitVec 6).toNat ∧ ((0x14 : BitVec 6).toNat ≤ 0x14 ∧ (0x14 : BitVec 6).toNat % 4 = 0) := by decide
theorem test_witness_HostDbufBytes : full.dbuf.read ((0x3F : BitVec 6).toNat - 32) = some 0xA5 ∧
    full.dbuf.read ((0x20 : BitVec 6).toNat - 32) = some 0xA5 ∧ ready.dbuf.read ((0x24 : BitVec 6).toNat - 32) = none ∧
    (∀ k, k < 4 → full.dbuf.read ((0x3C : BitVec 6).toNat - 32 + k) ≠ none) ∧
    ∃ k, k < 4 ∧ ready.dbuf.read ((0x3C : BitVec 6).toNat - 32 + k) = none := by
  refine ⟨by decide, by decide, by decide, by decide, 0, by decide, by decide⟩
theorem test_witness_BusyHoldsHostAccesses : (running 0x15000000 [⟨0, .access (.read32 0x04)⟩]).busy = true ∧
    HostAccess.read32 0x04 ≠ .read32 0x08 ∧ (running 0x15000000 [⟨0, .access (.read32 0x08)⟩]).busy = true := by decide
theorem test_witness_BusyHoldsHostAccesses_inside : ∃ t : State,
    exec .flushtx { ready with inputs := [⟨1, .access (.read32 0x08)⟩] } = .next t ∧
      t.resets = State.resets { ready with inputs := [⟨1, .access (.read32 0x08)⟩] } ∧ t.reads.length = 1 :=
  ⟨_, rfl, rfl, rfl⟩
theorem test_witness_BusyHoldsHostAccesses_step : ready.start.busy = true ∧
    (State.exchange { ready.start with inputs := [⟨1, .access (.read32 0x08)⟩, ⟨1, .reset⟩] } 0xE1).inputs =
      [⟨1, .access (.read32 0x08)⟩, ⟨1, .reset⟩] ∧ (⟨1, .reset⟩ : Input).due = false ∧
    (State.exchange { ready.start with inputs := [⟨0 + 2, .access (.read32 0x08)⟩] } 0xE1).inputs =
      [⟨0 + 2, .access (.read32 0x08)⟩] := ⟨rfl, rfl, rfl, rfl⟩
theorem test_witness_CmdWriteStartsCommand : ∃ t : State,
    ({ ready with inputs := [⟨0, .access (.write32 0x00 0x15000000)⟩] } : State).busy = false ∧
      step { ready with inputs := [⟨0, .access (.write32 0x00 0x15000000)⟩] } = .next t ∧ t.busy = true :=
  ⟨_, rfl, rfl, rfl⟩
theorem test_witness_FirstFailingCheckFaults : State.reset.firstFault (.wreg 5 1) = some .notInit ∧
    open'.firstFault .flushtx = some .busOpen ∧ ready.firstFault .openw = some .undefData ∧
    State.reset.firstFault (.ce 1) = some .notInit ∧ State.reset.firstFault .motormap = some .undefData := by decide
theorem test_witness_ResponseTellsFault : full.firstFault (.send 0xFF) = none ∧ full.noReset = true ∧
    Instr.isSpi (.send 0xFF) = false ∧ ready.firstFault (.wreg 5 5) = some .undefData := by decide
theorem test_witness_FaultBitsSticky : ∃ t : State,
    step { running 0x40010000 [] with fBusOpen := true } = .next t ∧
      State.faultBit { running 0x40010000 [] with fBusOpen := true } .busOpen = true ∧
      t.resets = State.resets { running 0x40010000 [] with fBusOpen := true } := ⟨_, rfl, rfl, rfl⟩
theorem test_witness_FaultBitsSticky_illegal : (running 0 []).sequencerTurn = true ∧ (running 0 []).upc = .step 0 ∧
    ∃ e, (running 0 []).fetch = .error e := ⟨rfl, rfl, _, rfl⟩
theorem test_witness_StepKeepsSoundness : ∃ t : State, (running 0x15000000 []).sound = true ∧
    step (running 0x15000000 []) = .next t := ⟨_, by decide, rfl⟩
theorem test_witness_ModeMachine : (∃ t : State, full.noReset = true ∧ exec .startl full = .next t) ∧
    State.reset.sound = true ∧ State.reset.mode = .poweredDown ∧ modeAfter .standby .startl ≠ .standby :=
  ⟨⟨_, rfl, rfl⟩, by decide, rfl, by decide⟩
theorem test_witness_InitWrittenByBegin : (∃ t : State, State.reset.noReset = true ∧ exec .beginLink State.reset = .next t) ∧
    State.reset.init = false ∧ ((Instr.rxcycle 1).isTransport || (Instr.rxcycle 1).isComposite) = true :=
  ⟨⟨_, rfl, rfl⟩, rfl, rfl⟩
theorem test_witness_RawCommandsKeepShadows : ∃ t : State, Instr.isRaw (.wreg 0x11 1) = true ∧ full.noReset = true ∧
    exec (.wreg 0x11 1) full = .next t := ⟨_, rfl, rfl, rfl⟩
theorem test_witness_MissedCountsLostCycles : (∃ t : State, Instr.isRxcycle .avail = false ∧ full.noReset = true ∧
    exec .avail full = .next t) ∧ State.quiet { full with missed := 255 } = true := ⟨⟨_, rfl, rfl, rfl⟩, rfl⟩
theorem test_witness_NoSignalStopsMotors : State.quiet { full with pwmL := 254, pwmR := 254 } = true ∧
    full.init = true ∧ full.csn = true := by decide
theorem test_witness_SessionRegisterWriters : ∃ t : State, full.noReset = true ∧ exec (.read 4) full = .next t ∧
    Instr.isRxcycle (.read 4) = false ∧ Instr.mnemonic (.read 4) ≠ "SEND" ∧ Instr.mnemonic (.read 4) ≠ "TXCYCLE" ∧
    full.linkLed = full.lastSendOk := ⟨_, rfl, rfl, rfl, by decide, by decide, rfl⟩
theorem test_witness_TimeNeverDecreases : ∃ t : State, step (running 0x26000000 []) = .next t := ⟨_, rfl⟩
theorem test_witness_HistoryOnlyGrows : ∃ t : State, step { State.reset with inputs := [⟨0, .reset⟩] } = .next t :=
  ⟨_, rfl⟩
theorem test_witness_CompositeCommandsCloseScopes : ∃ t : State, (Instr.isComposite .beginLink || Instr.isBegin .beginLink) =
    true ∧ open'.firstFault .beginLink = none ∧ exec .beginLink open' = .next t := ⟨_, rfl, rfl, rfl⟩
theorem test_witness_CompositeCommandsCloseScopes_any : (∀ a, Instr.ce 1 ≠ .csn a) ∧ ∃ t : State,
    exec (.ce 1) open' = .next t := ⟨fun _ => by simp, _, rfl⟩
theorem test_witness_DbufFrame : ∃ t : State, full.noReset = true ∧ exec (.rregb 0 0xFF) full = .next t ∧
    full.mayWrite (.rregb 0 0xFF) ≤ 32 ∧ open'.firstFault (.rregb 0 1) ≠ none := ⟨_, rfl, rfl, by decide, by decide⟩
theorem test_witness_ResetAbandonsCommand : ∃ t : State, exec .flushtx { ready with inputs := [⟨2, .reset⟩] } = .next t ∧
    State.resets { ready with inputs := [⟨2, .reset⟩] } < t.resets := ⟨_, rfl, by decide⟩
theorem test_witness_ResetAbandonsCommand_step : ready.start.busy = true ∧
    (State.exchange { ready.start with inputs := [⟨1, .reset⟩] } 0xE1).inputs = [⟨1, .reset⟩] ∧
    (State.exchange { ready.start with inputs := [⟨0, .reset⟩] } 0xE1).inputs = [⟨0, .reset⟩] ∧
    (State.exchange { ready.start with inputs := [⟨0 + 2, .reset⟩] } 0xE1).inputs = [⟨0 + 2, .reset⟩] ∧
    ready.busy = false := ⟨rfl, rfl, rfl, rfl, rfl⟩
theorem test_witness_PacketRoundTrip : (-128 : Int) ≤ -128 ∧ (-128 : Int) ≤ 127 ∧ (127 : Int) ≤ 127 := by decide
theorem test_witness_PacketWordLayout : (0 : Nat) < 4 ∧ (3 : Nat) < 4 := by decide
theorem test_witness_AxisMapObligations : (0 : BitVec 10).toNat ≤ (1023 : BitVec 10).toNat := by decide
theorem test_witness_MotorMapping : ready.start.busy = true := rfl
theorem test_witness_PollClockLaws : (1000 : Nat) ≤ State.time { ready with time := 1000 } ∧
    State.time { ready with time := 1000 } < 1000 + 2 ^ 32 := by decide
theorem test_witness_PollClockLaws_wrap : (4294967280 : Nat) ≤ State.time { ready with time := 8589934575 } ∧
    State.time { ready with time := 8589934575 } < 4294967280 + 2 ^ 32 := by decide
theorem test_witness_PollClockLaws_late : 1000 + 2 ^ 32 ≤ State.time { ready with time := 4294968296 } := by decide
/-- XFER, CSN and CE, with a raw scope open and not. -/
theorem test_witness_transport : open'.quiet = true ∧ open'.init = true ∧ ready.quiet = true ∧ ready.init = true := by
  decide
/-- The composite commands that consume no byte, and BEGIN. -/
theorem test_witness_composite : full.quiet = true ∧ full.init = true ∧ full.csn = true := by decide
theorem test_witness_held_access : State.quiet { full with inputs := [⟨0, .access (.read8 0x20)⟩] } = true := by decide
theorem test_witness_WregResult : full.dbuf.read 31 = some 0xA5 ∧ full.dbuf.read 0 = some 0xA5 ∧
    full.dbuf.validTo (min (0xFF : Byte).toNat 32) = true ∧
    State.reset.dbuf.validTo (min (0 : Byte).toNat 32) = true := by decide
theorem test_witness_WpayResult :
    ready.dbuf.validTo (min (min (0xFF : Byte).toNat 32) ready.payloadSize.toNat) = true := by decide
theorem test_witness_SendResult :
    full.dbuf.validTo (min (min (0xFF : Byte).toNat 32) full.payloadSize.toNat) = true := by decide
theorem test_witness_OpenwResult : full.dbuf.validTo 5 = true := by decide
theorem test_witness_OpenrResult : (1 : Byte).toNat ≤ 5 ∧ full.dbuf.validTo (if (1 : Byte).toNat ≤ 1 then 5 else 1) = true ∧
    (5 : Byte).toNat ≤ 5 ∧ ready.dbuf.validTo (if (5 : Byte).toNat ≤ 1 then 5 else 1) = true ∧ 5 < (6 : Byte).toNat ∧
    5 < (255 : Byte).toNat := by decide
theorem test_witness_MotormapResult : ready.dbuf.read 0 = some 0x00 ∧ ready.dbuf.read 1 = some 0x64 := by decide
theorem test_witness_SpiByteResult : State.reset.quiet = true ∧
    (Instr.spiWRegister 0x1F, (0x3F : Byte)) ∈ [(Instr.spiRRxPayload, (0x61 : Byte)), (.spiWTxPayload, 0xA0),
      (.spiFlushTx, 0xE1)] ++ (List.range 32).flatMap fun r =>
        [(Instr.spiRRegister (BitVec.ofNat 8 r), BitVec.ofNat 8 r),
          (.spiWRegister (BitVec.ofNat 8 r), BitVec.ofNat 8 (32 + r))] := by decide

end Sys2Proof.Tests
end

section
/-! The facts about a step: who acts next, and what either of them does. -/

namespace Sys2Proof.Machine

/-! ### The outside world's actions -/

@[simp] theorem State.perform_access (s : State) (a : HostAccess) : s.perform (.access a) = s.hostAccess a := rfl

@[simp] theorem State.perform_reset (s : State) : s.perform .reset = s.resetInput := rfl

/-! ### Whose turn it is -/

/-- While BUSY = 0 the sequencer has nothing to run (00_scope.md R8). -/
theorem State.sequencerTurn_of_not_busy {s : State} (hidle : s.busy = false) : s.sequencerTurn = false := by
  simp [State.sequencerTurn, hidle]

theorem State.sequencerTurn_of_inputs_nil {s : State} (hnone : s.inputs = []) : s.sequencerTurn = s.busy := by
  simp [State.sequencerTurn, hnone]

theorem State.sequencerTurn_of_inputs_cons {s : State} {i : Input} {rest : List Input} (hnext : s.inputs = i :: rest) :
    s.sequencerTurn = (s.busy && !i.due) := by
  simp [State.sequencerTurn, hnext]

/-! ### What the sequencer runs -/

theorem State.runSequencer_of_decode_ok {s : State} {i : Instr} (hdec : decode s.fetchBytes = .ok i) :
    s.runSequencer = exec i s := by
  simp [State.runSequencer, State.fetch, hdec]

/-! ### The three things a step can be -/

/-- With no coming action, the step is the sequencer's if a command runs, and empty if none does. -/
theorem step_of_inputs_nil {s : State} (hnone : s.inputs = []) :
    step s = if s.busy then s.runSequencer else .next s := by
  simp [step, hnone]

/-- With a coming action, whoever has the turn makes the step. -/
theorem step_of_inputs_cons {s : State} {i : Input} {rest : List Input} (hnext : s.inputs = i :: rest) :
    step s = if s.sequencerTurn then s.runSequencer else .next ({ s with inputs := rest }.perform i.act) := by
  simp [step, hnext, State.sequencerTurn_of_inputs_cons hnext]

theorem step_of_sequencerTurn {s : State} (hturn : s.sequencerTurn = true) : step s = s.runSequencer := by
  cases hinputs : s.inputs with
  | nil =>
    have hbusy : s.busy = true := State.sequencerTurn_of_inputs_nil hinputs ▸ hturn
    rw [step_of_inputs_nil hinputs, if_pos hbusy]
  | cons i rest => rw [step_of_inputs_cons hinputs, if_pos hturn]

/-- Any action at all is made while BUSY = 0: none is held and no count is waited for. -/
theorem step_of_not_busy_of_inputs_cons {s : State} {i : Input} {rest : List Input} (hidle : s.busy = false)
    (hnext : s.inputs = i :: rest) : step s = .next ({ s with inputs := rest }.perform i.act) := by
  rw [step_of_inputs_cons hnext, State.sequencerTurn_of_not_busy hidle, if_neg Bool.false_ne_true]

/-- The block waits for a CMD write (60_exceptions.md R146). -/
theorem step_of_not_busy_of_inputs_nil {s : State} (hidle : s.busy = false) (hnone : s.inputs = []) :
    step s = .next s := by
  rw [step_of_inputs_nil hnone, hidle, if_neg Bool.false_ne_true]

/-- Settles O6, from the equation of `step` for each one who may act next. -/
theorem stepRunsDecodedInstruction : Obligations.StepRunsDecodedInstruction := by
  refine ⟨?sequencer, ?outside, State.perform_access, State.perform_reset, ?waiting⟩
  case sequencer =>
    intro s i hturn hdec
    rw [step_of_sequencerTurn hturn, State.runSequencer_of_decode_ok hdec]
  case outside =>
    intro s n act rest hidle hnext
    exact step_of_not_busy_of_inputs_cons hidle hnext
  case waiting =>
    intro s hidle hnone
    exact step_of_not_busy_of_inputs_nil hidle hnone

end Sys2Proof.Machine
end

section
/-! The registers that a command leaves. A body's effect on the bus is put aside as `BusFields`, so that what remains of
an instruction is the few registers its rule lets it write; `exec_cases` then says once what can become of any
instruction in any state, and `step_cases` of any step. -/

namespace Sys2Proof.Machine

/-! ### The bus put aside -/

/-- What the primitives of a body write by themselves: the lines, LAST_STATUS, the sequencer's place and scratch, and
the trace. -/
structure BusFields where
  csn : Bool
  ce : Bool
  lastStatus : Byte
  upc : SeqPos
  t0 : Word
  tmp : Byte
  history : List Event
  answers : List Byte
  draws : Nat
  time : Nat

/-- `s` with other bus fields. -/
def State.withBus (s : State) (b : BusFields) : State :=
  { s with
    csn := b.csn, ce := b.ce, lastStatus := b.lastStatus, upc := b.upc, t0 := b.t0, tmp := b.tmp
    history := b.history, answers := b.answers, draws := b.draws, time := b.time }

/-- The bus fields of a state. -/
def State.bus (s : State) : BusFields :=
  ⟨s.csn, s.ce, s.lastStatus, s.upc, s.t0, s.tmp, s.history, s.answers, s.draws, s.time⟩

@[simp] theorem State.withBus_withBus (s : State) (b b' : BusFields) : (s.withBus b).withBus b' = s.withBus b' := rfl

/-- A state that a body leaves, once its law says how it agrees with `s` beside the bus fields. -/
theorem State.exists_withBus {s t u : State} (h : t = u) (hu : u = s.withBus u.bus) : ∃ b, t = s.withBus b :=
  ⟨u.bus, h.trans hu⟩

theorem State.calm_withBus {s : State} (h : s.calm) (b : BusFields) : (s.withBus b).calm := State.calm_of h rfl rfl

/-- A body that writes nothing but bus fields, when nothing lands in it. -/
def BusOnly (f : State → State) : Prop := ∀ s : State, s.calm → ∃ b, f s = s.withBus b

theorem BusOnly.id : BusOnly fun s => s := fun s _ => ⟨s.bus, rfl⟩

theorem BusOnly.comp {f g : State → State} (hg : BusOnly g) (hf : BusOnly f) : BusOnly fun s => g (f s) := by
  intro s h
  obtain ⟨b, hb⟩ := hf s h
  obtain ⟨b', hb'⟩ := hg (s.withBus b) (State.calm_withBus h b)
  exact ⟨b', by simp only [hb, hb', State.withBus_withBus]⟩

/-- A body that uses a value of the state it starts in. -/
theorem BusOnly.using {α : Type} {F : α → State → State} (hF : ∀ v, BusOnly (F v)) (g : State → α) :
    BusOnly fun s => F (g s) s := fun s h => hF (g s) s h

theorem BusOnly.foldl {α : Type} {F : State → α → State} (l : List α) (hF : ∀ a, BusOnly fun s => F s a) :
    BusOnly fun s => l.foldl F s := by
  induction l with
  | nil => exact .id
  | cons a l ih => exact ih.comp (hF a)

theorem BusOnly.wait (us : Nat) : BusOnly (State.wait us) := fun _ h => State.exists_withBus (State.wait_calm h us) rfl

theorem BusOnly.enable (l : Bool) : BusOnly (State.enable l) :=
  fun _ h => State.exists_withBus (State.enable_calm h l) rfl

theorem BusOnly.select (active : Bool) : BusOnly (State.select active) :=
  fun _ h => State.exists_withBus (State.select_calm h active) rfl

theorem BusOnly.getTmp (b : Byte) : BusOnly (State.getTmp b) :=
  fun _ h => State.exists_withBus (State.getTmp_calm h b) rfl

theorem BusOnly.commandByte (b : Byte) : BusOnly (State.commandByte b) :=
  fun _ h => State.exists_withBus (State.commandByte_calm h b) rfl

theorem BusOnly.writeReg (reg : Byte) (bytes : List Byte) : BusOnly (State.writeReg reg bytes) := fun _ h =>
  let ⟨_, _, _, _, he⟩ := State.writeReg_calm h reg bytes
  State.exists_withBus he rfl

theorem BusOnly.writeReg1 (reg v : Byte) : BusOnly (State.writeReg1 reg v) := .writeReg reg [v]

theorem BusOnly.readReg1 (reg : Byte) : BusOnly (State.readReg1 reg) := fun _ h =>
  let ⟨_, _, _, he⟩ := State.readReg1_calm h reg
  State.exists_withBus he rfl

theorem BusOnly.clearFlags (m : Byte) : BusOnly (State.clearFlags m) := .writeReg1 _ m

theorem BusOnly.flushTx : BusOnly State.flushTx := fun _ h =>
  let ⟨_, _, he⟩ := State.flushTx_calm h
  State.exists_withBus he rfl

theorem BusOnly.configRmw (set clear : Byte) : BusOnly (State.configRmw set clear) := fun _ h =>
  let ⟨_, _, _, _, _, he⟩ := State.configRmw_calm h set clear
  State.exists_withBus he rfl

theorem BusOnly.writePayload (c : Byte) (n : Nat) : BusOnly (State.writePayload c n) := fun _ h =>
  let ⟨_, _, _, _, he⟩ := State.writePayload_calm h c n
  State.exists_withBus he rfl

theorem BusOnly.openPipe (pipe : Nat) : BusOnly (State.openPipe pipe) :=
  (BusOnly.using (F := fun v s => s.writeReg1 Config.regEnRxaddr v) (fun _ => .writeReg1 _ _)
    fun s => s.tmp ||| 1 <<< pipe).comp ((BusOnly.readReg1 _).comp
      (.using (F := fun bs s => s.writeReg (Config.regRxAddr pipe) bs) (fun _ => .writeReg _ _)
        fun s => s.dbufBytes 0 (pipeAddressLength pipe)))

/-! ### The registers that a longer body leaves -/

/-- `m'` differs from `m` in bytes below `n` at most, and is canonical if `m` is. -/
structure Memory.WrittenBelow (n : Nat) (m m' : Memory) : Prop where
  wf : m.wf = true → m'.wf = true
  frame : ∀ k, n ≤ k → m'.read k = m.read k

theorem Memory.WrittenBelow.refl (n : Nat) (m : Memory) : Memory.WrittenBelow n m m := ⟨fun h => h, fun _ _ => rfl⟩

theorem Memory.WrittenBelow.trans {n : Nat} {m m' m'' : Memory} (h : Memory.WrittenBelow n m m')
    (h' : Memory.WrittenBelow n m' m'') : Memory.WrittenBelow n m m'' :=
  ⟨fun hw => h'.wf (h.wf hw), fun k hk => (h'.frame k hk).trans (h.frame k hk)⟩

theorem Memory.writtenBelow_writeAll {n : Nat} (m : Memory) (bs : List Byte) (hbs : bs.length ≤ n) (hn : n ≤ 32) :
    Memory.WrittenBelow n m (m.writeAll 0 bs) := by
  refine ⟨fun hw => Memory.wf_writeAll hw bs (by omega), fun k hk => ?_⟩
  rw [Memory.read_writeAll, if_neg (by omega)]

/-- `StopListening()` leaves MODE Idle (43_transceiver_control.md R96). -/
theorem State.stopListening_registers {s : State} (h : s.calm) :
    ∃ b, s.stopListening = { s with mode := .idle }.withBus b :=
  let ⟨_, _, _, _, _, he⟩ := State.stopListening_calm h
  State.exists_withBus he rfl

/-- `SetPayloadSize(c)` leaves the clamped size in PAYLOAD_SIZE, chip-select at any level (43_transceiver_control.md
R92). -/
theorem State.setPayloadSize_registers {s : State} (h : s.calm) (c : Nat) :
    ∃ b, s.setPayloadSize c = { s with payloadSize := BitVec.ofNat 6 (sizeOf c) }.withBus b := by
  rw [State.setPayloadSize, State.assign_calm h]
  exact BusOnly.foldl _ (fun p => .writeReg1 (Config.regRxPw p) (BitVec.ofNat 8 (sizeOf c))) _ (State.calm_of h rfl rfl)

/-- RREGB's scope writes `n` bytes of DBUF (42_register_access.md R85). -/
theorem State.readRegs_registers {s : State} (h : s.calm) (reg : Byte) (n : Nat) :
    ∃ ds : List Byte, ds.length = n ∧
      ∃ b, (s.scope fun s => (s.commandByte (Config.cmdReadRegister reg)).getBytes n 0) =
        { s with dbuf := s.dbuf.writeAll 0 ds }.withBus b :=
  let ⟨_, ds, _, hl, he⟩ := State.readRegs_calm h reg n
  ⟨ds, hl, State.exists_withBus he rfl⟩

/-- A payload read writes the payload's bytes of DBUF and no padding (42_register_access.md R87). -/
theorem State.readPayload_registers {s : State} (h : s.calm) (n : Nat) :
    ∃ ds : List Byte, ds.length = min n s.payloadSize.toNat ∧
      ∃ b, s.readPayload n = { s with dbuf := s.dbuf.writeAll 0 ds }.withBus b :=
  let ⟨_, ds, _, _, hl, _, he⟩ := State.readPayload_calm h n
  ⟨ds, hl, State.exists_withBus he rfl⟩

/-- SEND's body leaves MODE Idle and its outcome in LAST_SEND_OK, LINK_LED and RESP (45_ack_sequencer.md R116). -/
theorem State.sendBody_registers {s : State} (h : s.calm) (n : Nat) (hv : s.dbuf.validTo (s.dataLength n) = true) :
    ∃ (o : SendOutcome) (b : BusFields), s.sendBody n =
      { s with mode := .idle, lastSendOk := o.ok, linkLed := o.ok, resp := o.word }.withBus b :=
  let ⟨_, _, _, o, _, _, _, _, _, _, _, _, _, _, _, _, _, _, _, _, _, _, he⟩ := State.sendBody_calm h n hv
  ⟨o, State.exists_withBus he rfl⟩

/-- BEGIN up to its power-up wait drives the lines (43_transceiver_control.md R90). -/
theorem State.beginPowerUp_registers {s : State} (h : s.calm) :
    ∃ b, s.beginPowerUp = { s with pinsDriven := true }.withBus b :=
  let ⟨_, _, _, he⟩ := State.beginPowerUp_calm h
  State.exists_withBus he rfl

/-- RXCYCLE's receive part writes no DBUF byte beyond the packet's (46_link_consumer.md R125). -/
theorem State.receive_registers {s : State} (h : s.calm) :
    ∃ ds : List Byte, ds.length ≤ Config.packetLen ∧
      ∃ b, s.receive.1 = { s with dbuf := s.dbuf.writeAll 0 ds }.withBus b := by
  obtain ⟨b, hb⟩ := BusOnly.readReg1 Config.regStatus s h
  have c := State.calm_withBus h b
  simp only [State.receive, hb]
  split
  · obtain ⟨ds, hl, b1, h1⟩ := State.readPayload_registers c Config.packetLen
    obtain ⟨b2, h2⟩ := BusOnly.clearFlags Config.maskRxDr
      ({ s.withBus b with dbuf := s.dbuf.writeAll 0 ds }.withBus b1) (State.calm_of c rfl rfl)
    refine ⟨ds, hl ▸ Nat.min_le_left _ _, b2, ?_⟩
    exact (congrArg _ h1).trans h2
  · exact ⟨[], Nat.zero_le _, b, rfl⟩

/-- A cycle without a signal counts as missed, one with a signal clears the count (46_link_consumer.md R121). -/
theorem State.losStep_registers {s : State} (h : s.calm) (got : Option Packet) :
    ∃ (pkt : Word) (miss : Byte) (sig : Bool), (sig = false ∨ miss = 0) ∧
      s.losStep got = { s with lastPkt := pkt, missed := miss, signalPresent := sig } := by
  cases got with
  | some p => exact ⟨p.toWord, 0, true, .inr rfl, State.assign_calm h⟩
  | none =>
    exact ⟨s.lastPkt, BitVec.ofNat 8 (min (s.missed.toNat + 1) 255), false, .inl rfl, State.assign_calm h⟩

/-- RXCYCLE's output part: the loss-of-signal step, then the motors and the packet's bytes (46_link_consumer.md
R125). -/
theorem State.consume_registers {s : State} (h : s.calm) (got : Option Packet) :
    ∃ (pkt : Word) (miss : Byte) (sig : Bool) (l r : Byte) (fwd : Bool) (bs : List Byte),
      (sig = false ∨ miss = 0) ∧ bs.length = Config.packetLen ∧ s.consume got =
        { s with
          lastPkt := pkt, missed := miss, signalPresent := sig, pwmL := l, pwmR := r, dirFwd := fwd
          dbuf := s.dbuf.writeAll 0 bs } := by
  obtain ⟨pkt, miss, sig, hsig, hlos⟩ := State.losStep_registers h got
  have hcalm : (s.losStep got).calm := by rw [hlos]; exact State.calm_of h rfl rfl
  simp only [State.consume]
  generalize (s.losStep got).effective got = p
  refine ⟨pkt, miss, sig, motorLeft p, motorRight p, motorForward p, p.encode, hsig, rfl, ?_⟩
  rw [State.motorOut, State.assign_calm hcalm, State.storePacket, State.assign_busy, hlos]
  exact hcalm.1

/-! ### What an instruction leaves of the registers -/

/-- The registers of `u` are those that the instruction `i`, run in `s` past its checks, leaves: each is named with the
commands that write it. The bus fields, BUSY and the sequencer's place are not named, but for the lines. -/
structure State.Leaves (s : State) (i : Instr) (u : State) : Prop where
  cmd : u.cmd = s.cmd
  faults : ∀ c, u.faultBit c = s.faultBit c
  resp : i.isSpi = false → u.resp.getLsbD 31 = false
  mode : u.mode = modeAfter s.mode i
  init : u.init = (i.isBegin || s.init)
  pinsDriven : u.pinsDriven = (i.isBegin || s.pinsDriven)
  lines : (i.isTransport || i.isComposite || i.isBegin) = false → u.csn = s.csn ∧ u.ce = s.ce
  payloadSize : u.payloadSize = s.payloadSize ∨ i.isRaw = false ∧ ∃ n, u.payloadSize = BitVec.ofNat 6 (sizeOf n)
  link : u.lastSendOk = s.lastSendOk ∧ u.linkLed = s.linkLed ∨
    (i.mnemonic = "SEND" ∨ i.mnemonic = "TXCYCLE") ∧ u.linkLed = u.lastSendOk
  lastPkt : i.isRxcycle = false → u.lastPkt = s.lastPkt
  signal : u.signalPresent = s.signalPresent ∧ u.missed = s.missed ∨
    i.isRxcycle = true ∧ (u.signalPresent = false ∨ u.missed = 0)
  dbuf : Memory.WrittenBelow (s.mayWrite i) s.dbuf u.dbuf

/-- `t` is the end of the instruction `i`, run in `s` past its checks. -/
structure State.Completes (s : State) (i : Instr) (t : State) : Prop extends s.Leaves i t where
  busy : t.busy = false
  upc : t.upc = .idle

/-- The last step's end touches BUSY and the sequencer's place alone. -/
theorem State.Leaves.finish {s u : State} {i : Instr} (hb : u.busy = true) (h : s.Leaves i u) :
    s.Completes i u.finish := by
  rw [State.finish, State.assign_busy hb]
  exact ⟨⟨h.cmd, h.faults, h.resp, h.mode, h.init, h.pinsDriven, h.lines, h.payloadSize, h.link, h.lastPkt, h.signal,
    h.dbuf⟩, rfl, rfl⟩

/-- What is to come and what was read count for none of it. -/
theorem State.Completes.of_hush {s t : State} {i : Instr} (h : s.hush.Completes i t.hush) : s.Completes i t :=
  ⟨⟨h.cmd, h.faults, h.resp, h.mode, h.init, h.pinsDriven, h.lines, h.payloadSize, h.link, h.lastPkt, h.signal, h.dbuf⟩,
    h.busy, h.upc⟩

/-- A bus command that writes at most MODE and RESP beside the bus. -/
theorem State.Leaves.of_response {s : State} {i : Instr} (r : Word) (b : BusFields) (hr : r.getLsbD 31 = false)
    (hbegin : i.isBegin = false) (hbus : (i.isTransport || i.isComposite) = true) :
    s.Leaves i ({ s.start with mode := modeAfter s.mode i, resp := r }.withBus b) where
  cmd := rfl
  faults c := by cases c <;> rfl
  resp _ := hr
  mode := rfl
  init := by rw [hbegin]; rfl
  pinsDriven := by rw [hbegin]; rfl
  lines hlines := by rw [hbus] at hlines; cases hlines
  payloadSize := .inl rfl
  link := .inl ⟨rfl, rfl⟩
  lastPkt _ := rfl
  signal := .inl ⟨rfl, rfl⟩
  dbuf := .refl _ _

/-! ### The checks -/

@[simp] theorem Memory.validTo_zero (m : Memory) : m.validTo 0 = true := rfl

/-- R75's check is the first of R134's that a transport command makes. -/
theorem State.transportCheck_eq {s : State} {i : Instr} (hi : i.isTransport = true) :
    s.transportCheck = s.firstFault i := by
  have hother : i.isComposite = false ∧ s.consumed i = 0 := by cases i <;> cases hi <;> exact ⟨rfl, rfl⟩
  cases hs : s.init <;> simp [State.transportCheck, State.firstFault, hi, hother, hs]

theorem State.compositeCheck_eq {s : State} {i : Instr} (hi : i.isComposite = true) :
    s.compositeCheck (s.consumed i) = s.firstFault i := by
  simp only [State.compositeCheck, State.dataCheck, State.firstFault, hi, Bool.or_true, Bool.true_and]
  cases s.dbuf.validTo (s.consumed i) <;> rfl

/-- A command without bus access makes the data check alone. -/
theorem State.dataCheck_eq {s : State} {i : Instr} (ht : i.isTransport = false) (hc : i.isComposite = false) :
    s.dataCheck (s.consumed i) = s.firstFault i := by
  simp only [State.dataCheck, State.firstFault, ht, hc, Bool.or_self, Bool.false_and]
  cases s.dbuf.validTo (s.consumed i) <;> rfl

/-- A composite command that passes its checks finds the block initialised, no scope open and its data valid. -/
theorem State.firstFault_none_composite {s : State} {i : Instr} (hi : i.isComposite = true)
    (hpass : s.firstFault i = none) : s.init = true ∧ s.csn = true ∧ s.dbuf.validTo (s.consumed i) = true := by
  simp only [State.firstFault, hi, Bool.or_true, Bool.true_and, Bool.not_eq_true'] at hpass
  split_ifs at hpass with hinit hcsn hvalid
  exact ⟨Bool.eq_true_of_not_eq_false hinit, Bool.eq_true_of_not_eq_false hcsn, Bool.eq_true_of_not_eq_false hvalid⟩

/-- Bit 31 of RESP is a fault's mark: none of the values that the commands respond with has it. -/
theorem getLsbD_zext_of_le (b : Byte) {k : Nat} (hk : 8 ≤ k) : (zext b).getLsbD k = false := by
  simp [zext, BitVec.getLsbD_of_ge b k hk]

theorem getLsbD_bit_of_pos (b : Bool) {k : Nat} (hk : 0 < k) : (bit b).getLsbD k = false := by
  simp [bit, BitVec.getLsbD_ofBool, hk.ne']

/-- What an instruction does in `s` with nothing to come: the first check that fails ends it in the fault action, and
past its checks it ends with the registers of its rule. -/
structure State.Outcome (s : State) (i : Instr) : Prop where
  fault : ∀ c, s.firstFault i = some c → exec i s = .next (s.commandFault c)
  complete : s.firstFault i = none → s.quiet = true → ∃ t, exec i s = .next t ∧ s.Completes i t

/-- A command's outcome is its check's, or its body's. -/
theorem State.Outcome.of_command {s : State} {i : Instr} {check : Option FaultCode} {body : State → State}
    (hexec : exec i s = s.command check body) (hcheck : check = s.firstFault i)
    (hbody : s.firstFault i = none → s.start.calm → (body s.start).busy = true ∧ s.Leaves i (body s.start)) :
    s.Outcome i where
  fault c hc := by rw [hexec, hcheck, hc]; rfl
  complete hpass hq :=
    have ⟨hb, hl⟩ := hbody hpass (State.calm_start hq)
    ⟨_, by rw [hexec, hcheck, hpass]; rfl, hl.finish hb⟩

/-- A command whose body ends with its assignment to RESP. -/
theorem State.Outcome.of_responding {s : State} {i : Instr} {check : Option FaultCode} {f : State → State}
    {v : State → Word} (hexec : exec i s = s.command check fun s => (f s).respond v) (hcheck : check = s.firstFault i)
    (hbody : s.firstFault i = none → s.start.calm →
      (f s.start).busy = true ∧ s.Leaves i { f s.start with resp := v (f s.start) }) : s.Outcome i :=
  .of_command hexec hcheck fun hpass hcalm => by
    obtain ⟨hb, hl⟩ := hbody hpass hcalm
    rw [State.respond, State.assign_busy hb]
    exact ⟨hb, hl⟩

/-- The outcome of a command that only drives the bus and responds. -/
theorem State.Outcome.of_busOnly {s : State} {i : Instr} {check : Option FaultCode} {f : State → State}
    {v : State → Word} (hf : BusOnly f) (hexec : exec i s = s.command check fun s => (f s).respond v)
    (hcheck : check = s.firstFault i) (hv : ∀ u, (v u).getLsbD 31 = false) (hmode : ∀ m, modeAfter m i = m)
    (hbegin : i.isBegin = false) (hbus : (i.isTransport || i.isComposite) = true) : s.Outcome i :=
  .of_responding hexec hcheck fun _ hcalm => by
    obtain ⟨b, hb⟩ := hf _ hcalm
    have hleaves := State.Leaves.of_response (s := s) _ b (hv (s.start.withBus b)) hbegin hbus
    rw [hmode] at hleaves
    rw [hb]
    exact ⟨rfl, hleaves⟩

/-! ### The instructions, one by one -/

section

variable (s : State)

theorem outcome_xfer (c : Byte) : s.Outcome (.xfer c) :=
  .of_busOnly (.getTmp c) rfl (State.transportCheck_eq rfl) (fun _ => getLsbD_zext_of_le _ (by decide)) (fun _ => rfl)
    rfl rfl

theorem outcome_csn (a : Byte) : s.Outcome (.csn a) :=
  .of_busOnly (.select (level a)) rfl (State.transportCheck_eq rfl) (fun _ => rfl) (fun _ => rfl) rfl rfl

theorem outcome_ce (a : Byte) : s.Outcome (.ce a) :=
  .of_busOnly (.enable (level a)) rfl (State.transportCheck_eq rfl) (fun _ => rfl) (fun _ => rfl) rfl rfl

theorem outcome_wreg (a b : Byte) : s.Outcome (.wreg a b) :=
  .of_busOnly (.using (F := fun bs s => s.writeReg (register a) bs) (fun _ => .writeReg _ _)
      fun s => s.dbufBytes 0 (lengthOf b))
    rfl (State.compositeCheck_eq (i := .wreg a b) rfl) (fun _ => getLsbD_zext_of_le _ (by decide)) (fun _ => rfl) rfl
    rfl

theorem outcome_rreg (a : Byte) : s.Outcome (.rreg a) :=
  .of_busOnly (.readReg1 (register a)) rfl (State.compositeCheck_eq (i := .rreg a) rfl)
    (fun _ => getLsbD_zext_of_le _ (by decide)) (fun _ => rfl) rfl rfl

theorem outcome_wpay (b c : Byte) : s.Outcome (.wpay b c) :=
  .of_busOnly (.writePayload c (lengthOf b)) rfl (State.compositeCheck_eq (i := .wpay b c) rfl)
    (fun _ => getLsbD_zext_of_le _ (by decide)) (fun _ => rfl) rfl rfl

theorem outcome_flushtx : s.Outcome .flushtx :=
  .of_busOnly .flushTx rfl (State.compositeCheck_eq (i := .flushtx) rfl) (fun _ => getLsbD_zext_of_le _ (by decide))
    (fun _ => rfl) rfl rfl

theorem outcome_setch (c : Byte) : s.Outcome (.setch c) :=
  .of_busOnly (.writeReg1 Config.regRfCh (channelOf c)) rfl (State.compositeCheck_eq (i := .setch c) rfl)
    (fun _ => getLsbD_zext_of_le _ (by decide)) (fun _ => rfl) rfl rfl

theorem outcome_openw : s.Outcome .openw :=
  .of_busOnly (.using (F := fun bs s => (s.writeReg Config.regTxAddr bs).writeReg (Config.regRxAddr 0) bs)
      (fun bs => (BusOnly.writeReg _ bs).comp (.writeReg _ bs)) fun s => s.dbufBytes 0 Config.addrWidth)
    rfl (State.compositeCheck_eq (i := .openw) rfl) (fun _ => rfl) (fun _ => rfl) rfl rfl

theorem outcome_openr (a : Byte) : s.Outcome (.openr a) := by
  by_cases hp : Config.pipeCount ≤ a.toNat
  · have hcons : s.consumed (.openr a) = 0 := if_pos hp
    refine .of_busOnly .id (if_pos hp) ?_ (fun _ => rfl) (fun _ => rfl) rfl rfl
    exact hcons ▸ State.compositeCheck_eq (i := .openr a) rfl
  · have hcons : s.consumed (.openr a) = pipeAddressLength a.toNat := if_neg hp
    refine .of_busOnly (.openPipe a.toNat) (if_neg hp) ?_ (fun _ => rfl) (fun _ => rfl) rfl rfl
    exact hcons ▸ State.compositeCheck_eq (i := .openr a) rfl

theorem outcome_avail : s.Outcome .avail :=
  .of_busOnly (.readReg1 Config.regStatus) rfl (State.compositeCheck_eq (i := .avail) rfl)
    (fun _ => getLsbD_bit_of_pos _ (by decide)) (fun _ => rfl) rfl rfl

/-- The commands that write DBUF bytes from the bus and respond with LAST_STATUS. -/
theorem State.Leaves.of_received {s : State} {i : Instr} (ds : List Byte) (r : Byte) (b : BusFields)
    (hlen : ds.length ≤ s.mayWrite i) (hmax : s.mayWrite i ≤ 32) (hbegin : i.isBegin = false)
    (hbus : (i.isTransport || i.isComposite) = true) :
    s.Leaves i ({ s.start with
      mode := modeAfter s.mode i, dbuf := s.dbuf.writeAll 0 ds, resp := zext r }.withBus b) :=
  { State.Leaves.of_response (s := s) (zext r) b (getLsbD_zext_of_le _ (by decide)) hbegin hbus with
    faults := fun c => by cases c <;> rfl
    dbuf := Memory.writtenBelow_writeAll _ ds hlen hmax }

theorem outcome_rregb (a b : Byte) : s.Outcome (.rregb a b) :=
  .of_responding (by unfold exec execRregb; rfl) (State.compositeCheck_eq (i := .rregb a b) rfl) fun _ hcalm => by
    obtain ⟨ds, hl, f, hf⟩ := State.readRegs_registers hcalm (register a) (lengthOf b)
    rw [hf]
    exact ⟨rfl, .of_received ds _ f hl.le (Nat.min_le_right _ _) rfl rfl⟩

theorem outcome_rpay (b : Byte) : s.Outcome (.rpay b) :=
  .of_responding (by unfold exec execRpay; rfl) (State.compositeCheck_eq (i := .rpay b) rfl) fun _ hcalm => by
    obtain ⟨ds, hl, f, hf⟩ := State.readPayload_registers hcalm (lengthOf b)
    rw [hf]
    exact ⟨rfl, .of_received ds _ f hl.le ((Nat.min_le_left _ _).trans (Nat.min_le_right _ _)) rfl rfl⟩

theorem outcome_read (b : Byte) : s.Outcome (.read b) :=
  .of_command (by unfold exec execRead; rfl) (State.compositeCheck_eq (i := .read b) rfl) fun _ hcalm => by
    obtain ⟨ds, hl, f, hf⟩ := State.readPayload_registers hcalm (lengthOf b)
    have hcalm' : ({ s.start with dbuf := s.start.dbuf.writeAll 0 ds }.withBus f).calm := State.calm_of hcalm rfl rfl
    obtain ⟨f', hf'⟩ := BusOnly.clearFlags Config.maskRxDr _ hcalm'
    dsimp only
    rw [hf, hf', State.respond, State.assign_calm (State.calm_withBus hcalm' f')]
    exact ⟨rfl, .of_received ds _ f' hl.le ((Nat.min_le_left _ _).trans (Nat.min_le_right _ _)) rfl rfl⟩

theorem outcome_startl : s.Outcome .startl :=
  .of_responding (by unfold exec execStartl; rfl) (State.compositeCheck_eq (i := .startl) rfl) fun _ hcalm => by
    obtain ⟨b, hb⟩ : ∃ b, ((s.start.configRmw Config.configPrimRx 0x00).enable true).wait Config.tModeUs =
        s.start.withBus b :=
      (BusOnly.wait _).comp ((BusOnly.enable true).comp (.configRmw Config.configPrimRx 0x00)) _ hcalm
    rw [hb, State.setMode, State.assign_calm (State.calm_withBus hcalm b)]
    exact ⟨rfl, .of_response 0 b rfl rfl rfl⟩

theorem outcome_stopl : s.Outcome .stopl :=
  .of_responding (by unfold exec execStopl; rfl) (State.compositeCheck_eq (i := .stopl) rfl) fun _ hcalm => by
    obtain ⟨b, hb⟩ := State.stopListening_registers hcalm
    rw [hb]
    exact ⟨rfl, .of_response 0 b rfl rfl rfl⟩

theorem outcome_setps (c : Byte) : s.Outcome (.setps c) :=
  .of_responding (by unfold exec execSetps; rfl) (State.compositeCheck_eq (i := .setps c) rfl) fun _ hcalm => by
    obtain ⟨b, hb⟩ := State.setPayloadSize_registers hcalm c.toNat
    have hresp : ((BitVec.ofNat 6 (sizeOf c.toNat)).setWidth 32).getLsbD 31 = false := by
      rw [BitVec.getLsbD_setWidth, BitVec.getLsbD_of_ge _ _ (by decide), Bool.and_false]
    rw [hb]
    exact ⟨rfl, { State.Leaves.of_response (s := s) (i := .setps c) _ b hresp rfl rfl with
      faults := fun c => by cases c <;> rfl
      payloadSize := .inr ⟨rfl, c.toNat, rfl⟩ }⟩

/-- BEGIN's body before its last assignments. -/
theorem State.begin_registers {s : State} (h : s.calm) :
    ∃ b, ((s.beginPowerUp.setPayloadSize Config.payloadDefault).writeReg1 Config.regEnAa 0x01).writeReg1
        Config.regEnRxaddr 0x01 =
      { s with pinsDriven := true, payloadSize := BitVec.ofNat 6 (sizeOf Config.payloadDefault) }.withBus b := by
  obtain ⟨b₁, h₁⟩ := State.beginPowerUp_registers h
  obtain ⟨b₂, h₂⟩ := State.setPayloadSize_registers (s := { s with pinsDriven := true }.withBus b₁)
    (State.calm_of h rfl rfl) Config.payloadDefault
  obtain ⟨b₃, h₃⟩ := (BusOnly.writeReg1 Config.regEnRxaddr 0x01).comp (.writeReg1 Config.regEnAa 0x01)
    ({ s with pinsDriven := true, payloadSize := BitVec.ofNat 6 (sizeOf Config.payloadDefault) }.withBus b₂)
    (State.calm_of h rfl rfl)
  refine ⟨b₃, ?_⟩
  rw [h₁, h₂]
  exact h₃

theorem outcome_beginLink : s.Outcome .beginLink :=
  .of_command (by unfold exec execBegin; rfl) (State.dataCheck_eq (i := .beginLink) rfl rfl) fun _ hcalm => by
    obtain ⟨b, hb⟩ := State.begin_registers hcalm
    dsimp only
    rw [hb, State.assign_busy]
    · exact ⟨rfl, {
        cmd := rfl
        faults := fun c => by cases c <;> rfl
        resp := fun _ => show (0 : Word).getLsbD 31 = false from rfl
        mode := rfl
        init := rfl
        pinsDriven := rfl
        lines := fun h => absurd h (by decide)
        payloadSize := .inr ⟨rfl, Config.payloadDefault, rfl⟩
        link := .inl ⟨rfl, rfl⟩
        lastPkt := fun _ => rfl
        signal := .inl ⟨rfl, rfl⟩
        dbuf := .refl _ _ }⟩
    · rfl

/-- The commands without bus access write neither MODE nor INIT nor the lines. -/
theorem State.Leaves.of_local {s u : State} {i : Instr} (hu : ∃ p a l r f d w, u = { s.start with
      prevPressed := p, armed := a, pwmL := l, pwmR := r, dirFwd := f, dbuf := d, resp := w })
    (hresp : u.resp.getLsbD 31 = false) (hdbuf : Memory.WrittenBelow (s.mayWrite i) s.dbuf u.dbuf)
    (hmode : modeAfter s.mode i = s.mode) (hbegin : i.isBegin = false) : s.Leaves i u := by
  obtain ⟨p, a, l, r, f, d, w, rfl⟩ := hu
  exact {
    cmd := rfl
    faults := fun c => by cases c <;> rfl
    resp := fun _ => hresp
    mode := hmode.symm
    init := by rw [hbegin]; rfl
    pinsDriven := by rw [hbegin]; rfl
    lines := fun _ => ⟨rfl, rfl⟩
    payloadSize := .inl rfl
    link := .inl ⟨rfl, rfl⟩
    lastPkt := fun _ => rfl
    signal := .inl ⟨rfl, rfl⟩
    dbuf := hdbuf }

/-- The trigger is 0 or 1, so that the packet's word leaves RESP[31] = 0 (44_packet_framer.md R104, R106). -/
theorem getLsbD_framePacket (ax ay : BitVec 10) (trg sw : Bool) :
    (framePacket ax ay trg sw).toWord.getLsbD 31 = false := by
  have htrigger : ∀ pin, (trunc8 (invert pin)).getLsbD 7 = false := by decide
  rw [Packet.toWord, getLsbD_wordOfBytes]
  exact htrigger trg

theorem outcome_frame (ax ay : BitVec 10) (trg sw : Bool) : s.Outcome (.frame ax ay trg sw) :=
  .of_responding (by unfold exec execFrame State.frameBody; rfl) (State.dataCheck_eq (i := .frame ax ay trg sw) rfl rfl)
    fun _ hcalm => by
      rw [State.storePacket, State.assign_calm hcalm]
      exact ⟨rfl, .of_local ⟨_, _, _, _, _, _, _, rfl⟩ (getLsbD_framePacket ax ay trg sw)
        (Memory.writtenBelow_writeAll (n := 4) _ _ (le_refl 4) (by decide)) rfl rfl⟩

theorem outcome_debounce (a : Byte) : s.Outcome (.debounce a) :=
  .of_responding (by unfold exec execDebounce; rfl) (State.dataCheck_eq (i := .debounce a) rfl rfl) fun _ hcalm => by
    rw [State.edgeStep, State.assign_calm hcalm]
    exact ⟨rfl, .of_local ⟨_, _, _, _, _, _, _, rfl⟩ (getLsbD_bit_of_pos _ (by decide)) (.refl _ _) rfl rfl⟩

/-- MOTORMAP's answer ends below bit 31 (46_link_consumer.md R124). -/
theorem getLsbD_motorWord (l r : Byte) (f : Bool) : (zext l ||| zext r <<< 8 ||| bit f <<< 16).getLsbD 31 = false := by
  simp only [BitVec.getLsbD_or, BitVec.getLsbD_shiftLeft]
  rw [getLsbD_zext_of_le _ (by decide), getLsbD_zext_of_le _ (by decide), getLsbD_bit_of_pos _ (by decide)]
  simp

theorem outcome_motormap : s.Outcome .motormap :=
  .of_responding (by unfold exec execMotormap; rfl) (State.dataCheck_eq (i := .motormap) rfl rfl) fun _ hcalm => by
    rw [State.motorOut, State.assign_calm hcalm]
    exact ⟨rfl, .of_local ⟨_, _, _, _, _, _, _, rfl⟩ (getLsbD_motorWord _ _ _) (.refl _ _) rfl rfl⟩

/-- The outcome's word ends below bit 31 (45_ack_sequencer.md R116). -/
theorem getLsbD_sendWord (o : SendOutcome) : o.word.getLsbD 31 = false := by cases o <;> rfl

/-- SEND and TXCYCLE: MODE Idle, and the outcome in LAST_SEND_OK, LINK_LED and RESP (46_link_consumer.md R130). -/
theorem State.Leaves.of_sent {s : State} {i : Instr} (o : SendOutcome) (d : Memory) (b : BusFields)
    (hdbuf : Memory.WrittenBelow (s.mayWrite i) s.dbuf d) (hsends : i.mnemonic = "SEND" ∨ i.mnemonic = "TXCYCLE")
    (hbegin : i.isBegin = false) (hbus : (i.isTransport || i.isComposite) = true) :
    s.Leaves i ({ s.start with
      mode := modeAfter s.mode i, lastSendOk := o.ok, linkLed := o.ok, dbuf := d, resp := o.word }.withBus b) :=
  { State.Leaves.of_response (s := s) o.word b (getLsbD_sendWord o) hbegin hbus with
    faults := fun c => by cases c <;> rfl
    link := .inr ⟨hsends, rfl⟩
    dbuf := hdbuf }

theorem outcome_send (n : Byte) : s.Outcome (.send n) :=
  .of_command (by unfold exec execSend; rfl) (State.compositeCheck_eq (i := .send n) rfl) fun hpass hcalm => by
    have hvalid := (State.firstFault_none_composite rfl hpass).2.2
    obtain ⟨o, b, hb⟩ := State.sendBody_registers hcalm (lengthOf n) hvalid
    rw [hb]
    exact ⟨rfl, .of_sent o _ b (.refl _ _) (.inl rfl) rfl rfl⟩

/-- The bytes that TXCYCLE stores are valid when it sends them. -/
theorem validTo_writeAll (m : Memory) (bs : List Byte) {n : Nat} (hn : n ≤ bs.length) :
    (m.writeAll 0 bs).validTo n = true := by
  rw [Memory.validTo_iff]
  intro k hk
  rw [Memory.read_writeAll, if_pos (by omega)]
  rw [List.getElem?_eq_getElem (by omega)]
  rfl

/-- FRAME's body stores the packet and answers with its word (44_packet_framer.md R106). -/
theorem State.frameBody_registers {s : State} (h : s.calm) (ax ay : BitVec 10) (trg sw : Bool) :
    s.frameBody ax ay trg sw =
      { s with
        dbuf := s.dbuf.writeAll 0 (framePacket ax ay trg sw).encode, resp := (framePacket ax ay trg sw).toWord } := by
  rw [State.frameBody, State.storePacket, State.assign_calm h]
  exact State.assign_calm (State.calm_of h rfl rfl)

/-- TXCYCLE's body: the packet stored and sent (46_link_consumer.md R126). -/
theorem State.txcycle_registers {s : State} (h : s.calm) (ax ay : BitVec 10) (trg sw : Bool) (us : Nat) :
    ∃ (o : SendOutcome) (b : BusFields), ((s.frameBody ax ay trg sw).sendBody Config.packetLen).wait us =
      { s with
        mode := .idle, lastSendOk := o.ok, linkLed := o.ok, dbuf := s.dbuf.writeAll 0 (framePacket ax ay trg sw).encode
        resp := o.word }.withBus b := by
  have h₁ : (s.frameBody ax ay trg sw).calm := by
    rw [State.frameBody_registers h]; exact State.calm_of h rfl rfl
  have hvalid : (s.frameBody ax ay trg sw).dbuf.validTo
      ((s.frameBody ax ay trg sw).dataLength Config.packetLen) = true := by
    rw [State.frameBody_registers h]; exact validTo_writeAll _ _ (Nat.min_le_left _ _)
  obtain ⟨o, b₁, hb₁⟩ := State.sendBody_registers h₁ Config.packetLen hvalid
  have h₂ : ((s.frameBody ax ay trg sw).sendBody Config.packetLen).calm := by
    rw [hb₁]; exact State.calm_of h₁ rfl rfl
  obtain ⟨b₂, hb₂⟩ := BusOnly.wait us _ h₂
  refine ⟨o, b₂, ?_⟩
  rw [hb₂, hb₁, State.frameBody_registers h]
  rfl

theorem outcome_txcycle (ax ay : BitVec 10) (trg sw : Bool) : s.Outcome (.txcycle ax ay trg sw) :=
  .of_command (by unfold exec execTxcycle; rfl) (State.compositeCheck_eq (i := .txcycle ax ay trg sw) rfl)
    fun _ hcalm => by
      obtain ⟨o, b, hb⟩ := State.txcycle_registers hcalm ax ay trg sw (1000 * Config.txCycleMs)
      rw [hb]
      exact ⟨rfl, .of_sent o _ b (Memory.writtenBelow_writeAll (n := 4) _ _ (le_refl 4) (by decide)) (.inr rfl) rfl rfl⟩

/-- RXCYCLE's body up to its answer (46_link_consumer.md R125). -/
theorem State.rxcycle_registers {s : State} (h : s.calm) (p : Bool) (us : Nat) :
    ∃ (prev arm : Bool) (pkt : Word) (miss : Byte) (sig : Bool) (l r : Byte) (fwd : Bool) (d : Memory) (b : BusFields),
      (sig = false ∨ miss = 0) ∧ Memory.WrittenBelow Config.packetLen s.dbuf d ∧
        ((s.edgeStep p).receive.1.consume (s.edgeStep p).receive.2).wait us =
          { s with
            prevPressed := prev, armed := arm, lastPkt := pkt, missed := miss, signalPresent := sig
            pwmL := l, pwmR := r, dirFwd := fwd, dbuf := d }.withBus b := by
  have hedge : s.edgeStep p =
      { s with armed := if p && !s.prevPressed then !s.armed else s.armed, prevPressed := p } := State.assign_calm h
  have h₁ : (s.edgeStep p).calm := by rw [hedge]; exact State.calm_of h rfl rfl
  obtain ⟨ds, hds, b₁, hb₁⟩ := State.receive_registers h₁
  have h₂ : (s.edgeStep p).receive.1.calm := by rw [hb₁]; exact State.calm_of h₁ rfl rfl
  obtain ⟨pkt, miss, sig, l, r, fwd, bs, hsig, hbs, hc⟩ := State.consume_registers h₂ (s.edgeStep p).receive.2
  have h₃ : ((s.edgeStep p).receive.1.consume (s.edgeStep p).receive.2).calm := by
    rw [hc]; exact State.calm_of h₂ rfl rfl
  obtain ⟨b₂, hb₂⟩ := BusOnly.wait us _ h₃
  have hdbuf : Memory.WrittenBelow Config.packetLen s.dbuf ((s.dbuf.writeAll 0 ds).writeAll 0 bs) :=
    (Memory.writtenBelow_writeAll _ ds hds (by decide)).trans (Memory.writtenBelow_writeAll _ bs hbs.le (by decide))
  refine ⟨p, if p && !s.prevPressed then !s.armed else s.armed, pkt, miss, sig, l, r, fwd, _, b₂, hsig, hdbuf, ?_⟩
  rw [hb₂, hc, hb₁, hedge]
  rfl

/-- RXCYCLE's answer ends below bit 31 (46_link_consumer.md R125). -/
theorem getLsbD_rxResponse (s : State) : s.rxResponse.getLsbD 31 = false := by
  simp only [State.rxResponse, BitVec.getLsbD_or, BitVec.getLsbD_shiftLeft]
  rw [getLsbD_bit_of_pos _ (by decide), getLsbD_bit_of_pos _ (by decide), getLsbD_zext_of_le _ (by decide),
    getLsbD_zext_of_le _ (by decide), getLsbD_bit_of_pos _ (by decide)]
  simp

theorem outcome_rxcycle (a : Byte) : s.Outcome (.rxcycle a) :=
  .of_responding (by unfold exec execRxcycle; rfl) (State.compositeCheck_eq (i := .rxcycle a) rfl)
    fun _ hcalm => by
      obtain ⟨_, _, _, _, _, _, _, _, _, b, hsig, hdbuf, hb⟩ :=
        State.rxcycle_registers hcalm (level a) (1000 * Config.rxCycleMs)
      dsimp only
      rw [hb]
      exact ⟨rfl, {
        cmd := rfl
        faults := fun c => by cases c <;> rfl
        resp := fun _ => getLsbD_rxResponse _
        mode := rfl
        init := rfl
        pinsDriven := rfl
        lines := fun h => nomatch (show true = false from h)
        payloadSize := .inl rfl
        link := .inl ⟨rfl, rfl⟩
        lastPkt := fun h => nomatch (show true = false from h)
        signal := .inr ⟨rfl, hsig⟩
        dbuf := hdbuf }⟩

/-! ### The SPI command bytes -/

/-- A lone exchange, whichever byte it sends, writes no register but LAST_STATUS (log 13). -/
theorem State.sendCommandByte_completes (c : Byte) {i : Instr} (hspi : i.isSpi = true) (hq : s.quiet = true) :
    s.Completes i (s.sendCommandByte c) := by
  rw [State.sendCommandByte, State.commandByte_calm (State.calm_start hq)]
  refine State.Leaves.finish rfl ?_
  cases i <;> cases hspi <;> exact {
    cmd := rfl
    faults := fun c => by cases c <;> rfl
    resp := fun h => nomatch h
    mode := rfl
    init := rfl
    pinsDriven := rfl
    lines := fun _ => ⟨rfl, rfl⟩
    payloadSize := .inl rfl
    link := .inl ⟨rfl, rfl⟩
    lastPkt := fun _ => rfl
    signal := .inl ⟨rfl, rfl⟩
    dbuf := .refl _ _ }

/-- No check precedes a lone exchange. -/
theorem State.firstFault_of_isSpi {i : Instr} (hspi : i.isSpi = true) : s.firstFault i = none := by
  cases i <;> cases hspi <;> rfl

theorem State.Outcome.of_spi {s : State} {i : Instr} (c : Byte) (hspi : i.isSpi = true)
    (hexec : exec i s = .next (s.sendCommandByte c)) : s.Outcome i where
  fault c hc := by rw [State.firstFault_of_isSpi s hspi] at hc; cases hc
  complete _ hq := ⟨_, hexec, s.sendCommandByte_completes c hspi hq⟩

/-- The outcome of every instruction. -/
theorem exec_outcome (i : Instr) : s.Outcome i := by
  cases i with
  | xfer c => exact outcome_xfer s c
  | csn a => exact outcome_csn s a
  | ce a => exact outcome_ce s a
  | wreg a b => exact outcome_wreg s a b
  | rreg a => exact outcome_rreg s a
  | rregb a b => exact outcome_rregb s a b
  | wpay b c => exact outcome_wpay s b c
  | rpay b => exact outcome_rpay s b
  | flushtx => exact outcome_flushtx s
  | beginLink => exact outcome_beginLink s
  | setch c => exact outcome_setch s c
  | setps c => exact outcome_setps s c
  | openw => exact outcome_openw s
  | openr a => exact outcome_openr s a
  | startl => exact outcome_startl s
  | stopl => exact outcome_stopl s
  | frame ax ay trg sw => exact outcome_frame s ax ay trg sw
  | send b => exact outcome_send s b
  | avail => exact outcome_avail s
  | read b => exact outcome_read s b
  | debounce a => exact outcome_debounce s a
  | rxcycle a => exact outcome_rxcycle s a
  | motormap => exact outcome_motormap s
  | txcycle ax ay trg sw => exact outcome_txcycle s ax ay trg sw
  | spiRRegister reg => exact .of_spi _ rfl rfl
  | spiWRegister reg => exact .of_spi _ rfl rfl
  | spiRRxPayload => exact .of_spi _ rfl rfl
  | spiWTxPayload => exact .of_spi _ rfl rfl
  | spiFlushTx => exact .of_spi _ rfl rfl

end

/-! ### What can become of an instruction, and of a step -/

/-- Every instruction in every state: its first failing check ends it, or past its checks it completes, or a reset
abandons it. -/
theorem exec_cases {i : Instr} {s t : State} (h : exec i s = .next t) :
    (∃ c, s.firstFault i = some c ∧ t = s.commandFault c) ∨
      s.firstFault i = none ∧ (s.Completes i t ∨ s.Abandoned t) := by
  cases hcheck : s.firstFault i with
  | some c =>
    rw [(exec_outcome s i).fault c hcheck] at h
    cases h
    exact .inl ⟨c, rfl, rfl⟩
  | none =>
    obtain ⟨t₁, t', hexec, hhush, hends⟩ := exec_ends i s
    obtain ⟨t₂, hexec₂, hcompletes⟩ := (exec_outcome s.hush i).complete hcheck rfl
    rw [h] at hexec
    cases hexec
    rw [hhush] at hexec₂
    cases hexec₂
    rcases hends with ⟨-, rfl, -⟩ | habandoned
    · exact .inr ⟨rfl, .inl hcompletes.of_hush⟩
    · exact .inr ⟨rfl, .inr habandoned⟩

/-- Every instruction gives a next state. -/
theorem exec_next (i : Instr) (s : State) : ∃ t, exec i s = .next t :=
  let ⟨t, _, h, _⟩ := exec_ends i s
  ⟨t, h⟩

/-- With no reset to come, none abandons an instruction. -/
theorem exec_cases_of_noReset {i : Instr} {s t : State} (hno : s.noReset = true) (h : exec i s = .next t) :
    (∃ c, s.firstFault i = some c ∧ t = s.commandFault c) ∨ s.firstFault i = none ∧ s.Completes i t := by
  rcases exec_cases h with hfault | ⟨hpass, hcompletes | habandoned⟩
  · exact .inl hfault
  · exact .inr ⟨hpass, hcompletes⟩
  · rw [habandoned.came.2] at hno
    cases hno

/-- What is run when the sequencer has the turn: an instruction, or bytes that are none. -/
theorem State.runSequencer_ends (s : State) :
    ∃ t t', s.runSequencer = .next t ∧ s.hush.runSequencer = .next t' ∧ s.Ends t t' := by
  have hhush : s.hush.fetch = s.fetch := rfl
  unfold State.runSequencer
  rw [hhush]
  cases s.fetch with
  | ok i => exact exec_ends i s
  | error e =>
    refine ⟨_, _, rfl, rfl, ?_⟩
    have hupc : s.hush.upc = s.upc := rfl
    unfold State.rejected
    rw [hupc]
    cases s.upc with
    | spiByte b => exact State.sendCommandByte_ends b
    | idle => exact State.commandFault_ends .illegal
    | step k => exact State.commandFault_ends .illegal

/-- The sequencer's turn in every state: the command faults, completes past its checks, or is abandoned by a reset. An
SPI byte that stands for no instruction is sent as any other. -/
theorem State.runSequencer_cases {s t : State} (h : s.runSequencer = .next t) :
    (∃ c, t = s.commandFault c) ∨ (∃ i, s.firstFault i = none ∧ s.Completes i t) ∨ s.Abandoned t := by
  unfold State.runSequencer at h
  split at h
  · rcases exec_cases h with ⟨c, -, ht⟩ | ⟨hpass, hcompletes | habandoned⟩
    · exact .inl ⟨c, ht⟩
    · exact .inr (.inl ⟨_, hpass, hcompletes⟩)
    · exact .inr (.inr habandoned)
  · cases h
    unfold State.rejected
    split
    · rename_i b _
      rcases State.sendCommandByte_ends (s := s) b with ⟨-, hhush, -⟩ | habandoned
      · have hcompletes := s.hush.sendCommandByte_completes b (i := .spiFlushTx) rfl rfl
        rw [← hhush] at hcompletes
        exact .inr (.inl ⟨.spiFlushTx, s.firstFault_of_isSpi rfl, hcompletes.of_hush⟩)
      · exact .inr (.inr habandoned)
    all_goals exact .inl ⟨.illegal, rfl⟩

/-- An action that is due is made, whether a command runs or not. -/
theorem step_of_due {s : State} {i : Input} {rest : List Input} (hinputs : s.inputs = i :: rest)
    (hdue : i.due = true) : step s = .next ({ s with inputs := rest }.perform i.act) := by
  rw [step_of_inputs_cons hinputs, State.sequencerTurn_of_inputs_cons hinputs, hdue, Bool.not_true, Bool.and_false,
    if_neg Bool.false_ne_true]

/-- A step is the sequencer's, an action of the outside world that no running command holds, or empty. -/
theorem step_cases {s t : State} (h : step s = .next t) :
    (s.busy = true ∧ s.runSequencer = .next t) ∨
      (∃ i rest, s.inputs = i :: rest ∧ (s.busy = true → i.act.landsWhileBusy = true) ∧
        t = { s with inputs := rest }.perform i.act) ∨
      s.busy = false ∧ t = s := by
  cases hinputs : s.inputs with
  | nil =>
    rw [step_of_inputs_nil hinputs] at h
    split at h
    · exact .inl ⟨‹_›, h⟩
    · cases h
      exact .inr (.inr ⟨Bool.eq_false_iff.2 ‹_›, rfl⟩)
  | cons i rest =>
    rw [step_of_inputs_cons hinputs, State.sequencerTurn_of_inputs_cons hinputs] at h
    split at h
    · rename_i hturn
      exact .inl ⟨(Bool.and_eq_true _ _ ▸ hturn).1, h⟩
    · rename_i hturn
      cases h
      refine .inr (.inl ⟨i, rest, rfl, fun hbusy => ?_, rfl⟩)
      simp only [hbusy, Bool.true_and, Bool.not_eq_true', Bool.not_eq_false, Input.due, Bool.and_eq_true] at hturn
      exact hturn.1

end Sys2Proof.Machine
end

section
/-! What each host access does, and what no host access can do. -/

namespace Sys2Proof.Machine

/-- The readable words below DBUF stand at the 4-aligned offsets up to 0x14 (10_state.md R14, R15). -/
theorem State.readRegister_eq_none_iff (s : State) (off : BitVec 6) :
    s.readRegister off = none ↔ ¬(off.toNat ≤ 0x14 ∧ off.toNat % 4 = 0) := by
  unfold State.readRegister
  split_ifs with h0 h4 h8 hC h10 h14
  case neg => simp only [true_iff]; bv_omega
  all_goals subst off; simp

/-- The word whose bytes are those of DBUF from index `i` on (10_state.md R15). -/
def State.dbufWord (s : State) (i : Nat) : Word :=
  wordOfBytes (s.dbufByte i) (s.dbufByte (i + 1)) (s.dbufByte (i + 2)) (s.dbufByte (i + 3))

section
variable {s : State} {off : BitVec 6}

theorem inDbuf_eq_true (h : 32 ≤ off.toNat) : inDbuf off = true := decide_eq_true h

theorem inDbuf_eq_false (h : off.toNat < 32) : inDbuf off = false := decide_eq_false (Nat.not_le.2 h)

theorem aligned_eq_true (h : off.toNat % 4 = 0) : aligned off = true := decide_eq_true h

theorem aligned_eq_false (h : off.toNat % 4 ≠ 0) : aligned off = false := decide_eq_false h

/-- R15, for each kind of illegal access. -/
theorem State.hostAccess_write8_illegal (v : Byte) (h : off.toNat < 32) :
    s.hostAccess (.write8 off v) = { s with fIllegal := true } := by
  rw [State.hostAccess, inDbuf_eq_false h, if_neg Bool.false_ne_true]; rfl

theorem State.hostAccess_read8_illegal (h : off.toNat < 32) : s.hostAccess (.read8 off) = s.illegalRead := by
  rw [State.hostAccess, inDbuf_eq_false h, if_neg Bool.false_ne_true]

theorem State.hostAccess_write32_illegal (v : Word) (h : off.toNat % 4 ≠ 0 ∨ off.toNat < 32 ∧ off.toNat ≠ 0) :
    s.hostAccess (.write32 off v) = { s with fIllegal := true } := by
  rw [State.hostAccess]
  by_cases hd : 32 ≤ off.toNat
  · rw [inDbuf_eq_true hd, if_pos rfl, aligned_eq_false (by omega), if_neg Bool.false_ne_true]; rfl
  · have hcmd : off ≠ 0x00 := by rintro rfl; simp at h
    rw [inDbuf_eq_false (by omega), if_neg Bool.false_ne_true, if_neg hcmd]; rfl

theorem State.hostAccess_read32_illegal (h : off.toNat % 4 ≠ 0 ∨ off.toNat = 0x18 ∨ off.toNat = 0x1C) :
    s.hostAccess (.read32 off) = s.illegalRead := by
  rw [State.hostAccess]
  by_cases hd : 32 ≤ off.toNat
  · rw [inDbuf_eq_true hd, if_pos rfl, aligned_eq_false (by omega), if_neg Bool.false_ne_true]
  · rw [inDbuf_eq_false (by omega), if_neg Bool.false_ne_true, (s.readRegister_eq_none_iff off).2 (by omega)]

/-- R14, R18, for each kind of legal access. -/
theorem State.hostAccess_write8_dbuf (v : Byte) (h : 32 ≤ off.toNat) :
    s.hostAccess (.write8 off v) = { s with dbuf := s.dbuf.write (off.toNat - 32) v } := by
  rw [State.hostAccess, inDbuf_eq_true h, if_pos rfl]

theorem State.hostAccess_read8_dbuf (h : 32 ≤ off.toNat) :
    s.hostAccess (.read8 off) = s.readDbuf (off.toNat - 32) 1 (zext (s.dbufByte (off.toNat - 32))) := by
  rw [State.hostAccess, inDbuf_eq_true h, if_pos rfl]

theorem State.hostAccess_write32_dbuf (v : Word) (h : 32 ≤ off.toNat) (ha : off.toNat % 4 = 0) :
    s.hostAccess (.write32 off v) = { s with dbuf := s.dbuf.writeAll (off.toNat - 32) (wordBytes v) } := by
  rw [State.hostAccess, inDbuf_eq_true h, if_pos rfl, aligned_eq_true ha, if_pos rfl]

theorem State.hostAccess_read32_dbuf (h : 32 ≤ off.toNat) (ha : off.toNat % 4 = 0) :
    s.hostAccess (.read32 off) = s.readDbuf (off.toNat - 32) 4 (s.dbufWord (off.toNat - 32)) := by
  rw [State.hostAccess, inDbuf_eq_true h, if_pos rfl]
  exact if_pos (aligned_eq_true ha)

theorem State.hostAccess_read32_register (h : off.toNat ≤ 0x14) (ha : off.toNat % 4 = 0) :
    ∃ v, s.hostAccess (.read32 off) = { s with reads := v :: s.reads } := by
  obtain ⟨v, hv⟩ := Option.ne_none_iff_exists'.1 fun hn => (s.readRegister_eq_none_iff off).1 hn ⟨h, ha⟩
  refine ⟨v, ?_⟩
  rw [State.hostAccess, inDbuf_eq_false (by omega), if_neg Bool.false_ne_true, hv]

/-- R19. -/
theorem State.hostAccess_write32_cmd (w : Word) : s.hostAccess (.write32 0x00 w) = s.latchCommand w := rfl

/-- A read of valid DBUF bytes returns them and changes nothing (R18). -/
theorem State.readDbuf_valid {i n : Nat} (v : Word) (h : ∀ k, k < n → s.dbuf.read (i + k) ≠ none) :
    s.readDbuf i n v = { s with reads := v :: s.reads } := by
  refine if_pos (List.all_eq_true.2 fun k hk => ?_)
  exact Option.isSome_iff_ne_none.2 (h k (List.mem_range.1 hk))

/-- A read that covers an invalid DBUF byte is marked in F_UNDEF_DATA (R18). -/
theorem State.readDbuf_invalid {i n : Nat} (v : Word) (h : ∃ k, k < n ∧ s.dbuf.read (i + k) = none) :
    s.readDbuf i n v = { s with fUndefData := true, reads := v :: s.reads, draws := s.draws + 1 } := by
  obtain ⟨k, hk, hn⟩ := h
  refine if_neg fun hall => ?_
  have := List.all_eq_true.1 hall k (List.mem_range.2 hk)
  rw [hn] at this
  cases this

theorem State.dbufByte_of_read {i : Nat} {b : Byte} (h : s.dbuf.read i = some b) : s.dbufByte i = b := by
  rw [State.dbufByte, h]; rfl

end

/-- `t` is what a host access other than a write of CMD leaves of `s`: a fault bit that it may set, bytes of DBUF, and
what was read (10_state.md R15, R18). -/
structure State.HostTouched (s t : State) : Prop where
  frame : t = { s with
    fIllegal := t.fIllegal, fUndefData := t.fUndefData, dbuf := t.dbuf, reads := t.reads, draws := t.draws }
  illegal : s.fIllegal = true → t.fIllegal = true
  undefData : s.fUndefData = true → t.fUndefData = true
  wf : s.dbuf.wf = true → t.dbuf.wf = true

theorem State.HostTouched.cmd {s t : State} (h : s.HostTouched t) : t.cmd = s.cmd := by rw [h.frame]

theorem State.HostTouched.busy {s t : State} (h : s.HostTouched t) : t.busy = s.busy := by rw [h.frame]

theorem State.HostTouched.init {s t : State} (h : s.HostTouched t) : t.init = s.init := by rw [h.frame]

theorem State.HostTouched.illegalRead (s : State) : s.HostTouched s.illegalRead := ⟨rfl, fun _ => rfl, id, id⟩

theorem State.HostTouched.illegalWrite (s : State) : s.HostTouched s.illegalWrite := ⟨rfl, fun _ => rfl, id, id⟩

theorem State.HostTouched.read (s : State) (v : Word) : s.HostTouched { s with reads := v :: s.reads } :=
  ⟨rfl, id, id, id⟩

theorem State.HostTouched.readDbuf (s : State) (i n : Nat) (v : Word) : s.HostTouched (s.readDbuf i n v) := by
  unfold State.readDbuf
  split
  · exact .read s v
  · exact ⟨rfl, id, fun _ => rfl, id⟩

theorem State.HostTouched.write (s : State) {m : Memory} (h : s.dbuf.wf = true → m.wf = true) :
    s.HostTouched { s with dbuf := m } := ⟨rfl, id, id, h⟩

/-- A host access writes CMD, or it touches at most what it may. -/
theorem State.hostAccess_cases (s : State) (a : HostAccess) :
    (∃ w, a = .write32 0x00 w ∧ s.hostAccess a = s.latchCommand w) ∨ s.HostTouched (s.hostAccess a) := by
  cases a with
  | read8 off =>
    by_cases h : 32 ≤ off.toNat
    · rw [State.hostAccess_read8_dbuf h]; exact .inr (.readDbuf s _ _ _)
    · rw [State.hostAccess_read8_illegal (by omega)]; exact .inr (.illegalRead s)
  | read16 off => exact .inr (.illegalRead s)
  | read32 off =>
    by_cases hill : off.toNat % 4 ≠ 0 ∨ off.toNat = 0x18 ∨ off.toNat = 0x1C
    · rw [State.hostAccess_read32_illegal hill]; exact .inr (.illegalRead s)
    · by_cases h : 32 ≤ off.toNat
      · rw [State.hostAccess_read32_dbuf h (by omega)]; exact .inr (.readDbuf s _ _ _)
      · obtain ⟨v, hv⟩ := State.hostAccess_read32_register (s := s) (off := off) (by omega) (by omega)
        rw [hv]; exact .inr (.read s v)
  | write8 off v =>
    by_cases h : 32 ≤ off.toNat
    · rw [State.hostAccess_write8_dbuf v h]
      exact .inr (.write s fun hw => Memory.wf_write hw (by omega) v)
    · rw [State.hostAccess_write8_illegal v (by omega)]; exact .inr (.illegalWrite s)
  | write16 off v => exact .inr (.illegalWrite s)
  | write32 off v =>
    by_cases hill : off.toNat % 4 ≠ 0 ∨ off.toNat < 32 ∧ off.toNat ≠ 0
    · rw [State.hostAccess_write32_illegal v hill]; exact .inr (.illegalWrite s)
    · by_cases h : 32 ≤ off.toNat
      · rw [State.hostAccess_write32_dbuf v h (by omega)]
        have hfits : off.toNat - 32 + (wordBytes v).length ≤ 32 := by
          simp only [wordBytes, List.length_cons, List.length_nil]
          omega
        exact .inr (.write s fun hw => Memory.wf_writeAll hw _ hfits)
      · have hoff : off = 0x00 := by bv_omega
        subst hoff
        exact .inl ⟨v, rfl, State.hostAccess_write32_cmd v⟩

end Sys2Proof.Machine
end

section
/-! The whole-machine rules: the invariant of every step, who may write which register, and what becomes of a command. -/

namespace Sys2Proof.Machine

/-! ### Soundness -/

theorem State.sound_iff (s : State) : s.sound = true ↔
    s.dbuf.wf = true ∧ (1 ≤ s.payloadSize.toNat ∧ s.payloadSize.toNat ≤ 32) ∧ s.init = (s.mode != .poweredDown) ∧
      (s.pinsDriven = true ∨ s.csn = true ∧ s.ce = false ∧ s.init = false) ∧ s.linkLed = s.lastSendOk ∧
      (s.signalPresent = false ∨ s.missed = 0) ∧ s.busy = (s.upc != .idle) := by
  simp [State.sound, and_assoc]

theorem State.reset_sound : State.reset.sound = true := by decide

/-- The fault action writes a fault bit and RESP, and stops the sequencer. -/
theorem State.sound_commandFault {s : State} (h : s.sound = true) (c : FaultCode) :
    (s.commandFault c).sound = true := by
  rw [State.sound_iff] at h ⊢
  obtain ⟨hdbuf, hsize, hinit, hpins, hled, hsignal, -⟩ := h
  simp only [State.commandFault_dbuf, State.commandFault_payloadSize, State.commandFault_init, State.commandFault_mode,
    State.commandFault_pinsDriven, State.commandFault_csn, State.commandFault_ce, State.commandFault_linkLed,
    State.commandFault_lastSendOk, State.commandFault_signalPresent, State.commandFault_missed]
  exact ⟨hdbuf, hsize, hinit, hpins, hled, hsignal, rfl⟩

theorem State.sound_hostAccess {s : State} (h : s.sound = true) (a : HostAccess) : (s.hostAccess a).sound = true := by
  rw [State.sound_iff] at h ⊢
  obtain ⟨hdbuf, hsize, hinit, hpins, hled, hsignal, hbusy⟩ := h
  rcases s.hostAccess_cases a with ⟨w, -, heq⟩ | htouched
  · rw [heq]
    exact ⟨hdbuf, hsize, hinit, hpins, hled, hsignal, rfl⟩
  · have hwf := htouched.wf hdbuf
    rw [htouched.frame]
    exact ⟨hwf, hsize, hinit, hpins, hled, hsignal, hbusy⟩

/-- A reset leaves the registers of the reset state, whatever it leaves of the trace. -/
theorem State.Abandoned.sound {s t : State} (h : s.Abandoned t) : t.sound = true := by
  rw [h.registers]
  exact State.reset_sound

/-- A command that drives the bus makes the INIT check first (60_exceptions.md R134). -/
theorem State.firstFault_of_not_init {s : State} {i : Instr} (hinit : s.init = false)
    (hbus : (i.isTransport || i.isComposite) = true) : s.firstFault i = some .notInit := by
  rw [State.firstFault, hbus, hinit]; rfl

/-- R89's table: a command either keeps MODE, or takes it out of PoweredDown, which none but BEGIN does without INIT. -/
theorem modeAfter_cases (i : Instr) :
    i.isBegin = false ∧ (∀ m, modeAfter m i = m) ∨
      (i.isBegin = true ∨ i.isComposite = true) ∧ ∀ m, modeAfter m i ≠ .poweredDown := by
  cases i
  case beginLink => exact .inr ⟨.inl rfl, fun _ => by simp [modeAfter]⟩
  case startl | stopl | send | txcycle => exact .inr ⟨.inr rfl, fun _ => by simp [modeAfter]⟩
  all_goals exact .inl ⟨rfl, fun _ => rfl⟩

/-- SETPS clamps to the sizes of R30. -/
theorem sizeOf_bounds (n : Nat) : 1 ≤ sizeOf n ∧ sizeOf n ≤ 32 := by
  simp only [sizeOf, Config.payloadMin, Config.payloadMax]
  omega

theorem toNat_payloadSize (n : Nat) : (BitVec.ofNat 6 (sizeOf n)).toNat = sizeOf n := by
  have := (sizeOf_bounds n).2
  rw [BitVec.toNat_ofNat, Nat.mod_eq_of_lt (by omega)]

/-- INIT stays 0 exactly in PoweredDown (43_transceiver_control.md R89). -/
theorem State.init_modeAfter {s : State} {i : Instr} (hpass : s.firstFault i = none)
    (hinit : s.init = (s.mode != .poweredDown)) :
    (i.isBegin || s.init) = (modeAfter s.mode i != .poweredDown) := by
  rcases modeAfter_cases i with ⟨hbegin, hmode⟩ | ⟨hbegin | hcomposite, hmode⟩
  · rw [hbegin, hmode, hinit]; rfl
  · rw [hbegin, bne_iff_ne.2 (hmode _)]; rfl
  · rw [(State.firstFault_none_composite hcomposite hpass).1, bne_iff_ne.2 (hmode _), Bool.or_true]

/-- A command past its checks that leaves the lines undriven touches none of them (10_state.md R25). -/
theorem State.Completes.lines_of_not_driven {s t : State} {i : Instr} (h : s.Completes i t)
    (hpass : s.firstFault i = none) (hinit : s.init = false) (hbegin : i.isBegin = false) :
    t.csn = s.csn ∧ t.ce = s.ce := by
  have hbus : (i.isTransport || i.isComposite) = false := by
    by_contra hbus
    rw [State.firstFault_of_not_init hinit (Bool.eq_true_of_not_eq_false hbus)] at hpass
    cases hpass
  exact h.lines (by rw [hbus, hbegin]; rfl)

/-- An instruction past its checks keeps the invariant. -/
theorem State.Completes.sound {s t : State} {i : Instr} (h : s.Completes i t) (hpass : s.firstFault i = none)
    (hsound : s.sound = true) : t.sound = true := by
  rw [State.sound_iff] at hsound ⊢
  obtain ⟨hdbuf, hsize, hinit, hpins, hled, hsignal, -⟩ := hsound
  refine ⟨h.dbuf.wf hdbuf, ?size, ?init, ?pins, ?led, ?signal, by rw [h.busy, h.upc]; rfl⟩
  case size =>
    rcases h.payloadSize with heq | ⟨-, n, heq⟩
    · rw [heq]; exact hsize
    · rw [heq, toNat_payloadSize]; exact sizeOf_bounds n
  case init => rw [h.init, h.mode]; exact State.init_modeAfter hpass hinit
  case pins =>
    cases hbegin : i.isBegin with
    | true => exact .inl (by rw [h.pinsDriven, hbegin]; rfl)
    | false =>
      rcases hpins with hdriven | ⟨hcsn, hce, hoff⟩
      · exact .inl (by rw [h.pinsDriven, hdriven, Bool.or_true])
      · obtain ⟨hcsn', hce'⟩ := h.lines_of_not_driven hpass hoff hbegin
        exact .inr ⟨hcsn'.trans hcsn, hce'.trans hce, by rw [h.init, hbegin, hoff]; rfl⟩
  case led =>
    rcases h.link with ⟨hok, hlink⟩ | ⟨-, heq⟩
    · rw [hok, hlink]; exact hled
    · exact heq
  case signal =>
    rcases h.signal with ⟨hsig, hmissed⟩ | ⟨-, hgot⟩
    · rw [hsig, hmissed]; exact hsignal
    · exact hgot

/-- Settles O17: the fault action, a completed command, an abandoned one, a host access and a reset each keep the
invariant, and a step is one of these. -/
theorem stepKeepsSoundness : Obligations.StepKeepsSoundness := by
  intro s t hsound hstep
  rcases step_cases hstep with ⟨-, hrun⟩ | ⟨i, rest, -, -, rfl⟩ | ⟨-, rfl⟩
  · rcases State.runSequencer_cases hrun with ⟨c, rfl⟩ | ⟨i, hpass, hcompletes⟩ | habandoned
    · exact State.sound_commandFault hsound c
    · exact hcompletes.sound hpass hsound
    · exact habandoned.sound
  · cases i.act with
    | access a => exact State.sound_hostAccess (s := { s with inputs := rest }) hsound a
    | reset => exact State.reset_sound
  · exact hsound

/-! ### Resets in the history -/

/-- Without a reset between them, two states count the same resets. -/
theorem State.Grows.resets_eq {s t : State} (h : s.Grows t) : t.resets = s.resets := by
  obtain ⟨evs, hhist, hnone⟩ := h.events
  rw [State.resets, hhist, List.count_append, List.count_eq_zero_of_not_mem hnone, Nat.zero_add]; rfl

theorem State.Abandoned.resets_eq {s t : State} (h : s.Abandoned t) : t.resets = s.resets + 1 := by
  obtain ⟨evs, hhist, hnone⟩ := h.events
  rw [State.resets, hhist, List.cons_append, List.count_cons_self, List.count_append,
    List.count_eq_zero_of_not_mem hnone, Nat.zero_add]; rfl

theorem State.resetInput_resets (s : State) : s.resetInput.resets = s.resets + 1 := List.count_cons_self

/-- No command faults or completes by writing CMD. -/
theorem State.runSequencer_cmd {s t : State} (h : s.runSequencer = .next t) (hresets : t.resets = s.resets) :
    t.cmd = s.cmd := by
  rcases State.runSequencer_cases h with ⟨c, rfl⟩ | ⟨i, -, hcompletes⟩ | habandoned
  · exact State.commandFault_cmd s c
  · exact hcompletes.cmd
  · rw [habandoned.resets_eq] at hresets
    exact absurd hresets (Nat.succ_ne_self _)

/-! ### Host accesses and a running command -/

/-- While a command runs, its step leaves every access that it holds to come, and makes none (10_state.md R16). -/
theorem State.runSequencer_holds {s : State} (hq : s.quiet = true) :
    ∃ t, s.runSequencer = .next t ∧ t.busy = false ∧ t.inputs = s.inputs ∧ t.reads = s.reads := by
  obtain ⟨t, -, hrun, -, ⟨hbusy, -, -, hwaits⟩ | habandoned⟩ := s.runSequencer_ends
  · exact ⟨t, hrun, hbusy, hwaits.quiet hq⟩
  · rw [habandoned.came.1] at hq
    cases hq

/-- Settles O12: a held access leaves the command quiet, and what lands in one is given by `exec_ends`. -/
theorem busyHoldsHostAccesses : Obligations.BusyHoldsHostAccesses := by
  refine ⟨?held, ?first, ?inside, ?after, ?later⟩
  case held =>
    intro s n a rest hbusy hinputs ha
    have hheld : (Action.access a).landsWhileBusy = false :=
      Bool.eq_false_iff.2 fun h => ha (Action.landsWhileBusy_access h)
    have hstep : step s = s.runSequencer := step_of_sequencerTurn (by
      rw [State.sequencerTurn_of_inputs_cons hinputs, hbusy, Input.due, hheld]; rfl)
    have hq : s.quiet = true := by rw [State.quiet, hinputs]; exact congrArg Bool.not hheld
    exact ⟨hstep, hstep ▸ State.runSequencer_holds hq⟩
  case first =>
    intro s rest _ hinputs
    exact step_of_due hinputs rfl
  case inside =>
    intro i s t hexec hresets
    obtain ⟨t₁, t', hexec₁, hhush, hends⟩ := exec_ends i s
    rw [hexec] at hexec₁
    cases hexec₁
    rcases hends with ⟨-, rfl, -, hwaits⟩ | habandoned
    · exact ⟨⟨t.hush, hhush, rfl⟩, hwaits.landed⟩
    · rw [habandoned.resets_eq] at hresets
      exact absurd hresets (Nat.succ_ne_self _)
  case after => exact fun f s rest hbusy hinputs hrest => State.tick_bstat hbusy hinputs hrest
  case later => exact fun f s n rest hbusy hinputs => State.tick_later hbusy rfl hinputs

/-- A step that sets BUSY is a write of CMD: the sequencer's turn ends with BUSY = 0, and so does a reset. -/
theorem cmdWrite_of_step_starts {s t : State} (hstep : step s = .next t) (hbusy : t.busy = true)
    (hidle : s.busy = false) : ∃ n w rest, s.inputs = ⟨n, .access (.write32 0x00 w)⟩ :: rest ∧ t.cmd = w := by
  rcases step_cases hstep with ⟨hbusy', -⟩ | ⟨⟨n, act⟩, rest, hinputs, -, rfl⟩ | ⟨-, rfl⟩
  · exact nomatch hbusy'.symm.trans hidle
  · cases act with
    | reset => cases hbusy
    | access a =>
      rcases State.hostAccess_cases { s with inputs := rest } a with ⟨w, rfl, heq⟩ | htouched
      · exact ⟨n, w, rest, hinputs, congrArg State.cmd heq⟩
      · exact nomatch hidle.symm.trans (htouched.busy.symm.trans hbusy)
  · exact nomatch hidle.symm.trans hbusy

/-- A step that changes CMD and is no reset is a write of CMD, which no running command lets through. -/
theorem cmdWrite_of_step_changes {s t : State} (hstep : step s = .next t) (hcmd : t.cmd ≠ s.cmd)
    (hresets : t.resets = s.resets) :
    s.busy = false ∧ ∃ n w rest, s.inputs = ⟨n, .access (.write32 0x00 w)⟩ :: rest ∧ t.cmd = w := by
  rcases step_cases hstep with ⟨-, hrun⟩ | ⟨⟨n, act⟩, rest, hinputs, hlands, rfl⟩ | ⟨-, rfl⟩
  · exact absurd (State.runSequencer_cmd hrun hresets) hcmd
  · cases act with
    | reset => exact absurd ((State.resetInput_resets _).symm.trans hresets) (Nat.succ_ne_self s.resets)
    | access a =>
      rcases State.hostAccess_cases { s with inputs := rest } a with ⟨w, rfl, heq⟩ | htouched
      · exact ⟨Bool.eq_false_iff.2 fun hbusy => (nomatch hlands hbusy), n, w, rest, hinputs, congrArg State.cmd heq⟩
      · exact absurd htouched.cmd hcmd
  · exact absurd rfl hcmd

/-- Settles O13: a write of CMD latches its word, and no other step sets BUSY or changes CMD but a reset. -/
theorem cmdWriteStartsCommand : Obligations.CmdWriteStartsCommand := by
  refine ⟨?starts, fun s => rfl, rfl, ?nothingElse⟩
  case starts =>
    intro s n w rest hidle hinputs
    exact step_of_not_busy_of_inputs_cons hidle hinputs
  case nothingElse =>
    intro s t hstep hchange
    rcases hchange with ⟨hbusy, hidle⟩ | ⟨hcmd, hresets⟩
    · exact ⟨hidle, cmdWrite_of_step_starts hstep hbusy hidle⟩
    · exact cmdWrite_of_step_changes hstep hcmd hresets

/-! ### The end of a command -/

/-- Settles O15: past its checks a command ends with RESP[31] = 0, abandoned or not, and a failing check answers with
its code. -/
theorem responseTellsFault : Obligations.ResponseTellsFault := by
  refine ⟨rfl, fun i s hcommand => ⟨fun hpass => ?completes, fun c hfault => ?faults⟩, rfl, rfl, rfl, rfl⟩
  case faults => exact ⟨_, (exec_outcome s i).fault c hfault, rfl, rfl⟩
  case completes =>
    obtain ⟨t, hexec⟩ := exec_next i s
    rcases exec_cases hexec with ⟨c, hfault, -⟩ | ⟨-, hcompletes | habandoned⟩
    · rw [hpass] at hfault
      cases hfault
    · exact ⟨t, hexec, hcompletes.busy, hcompletes.resp hcommand, fun _ => hcompletes.faults⟩
    · have hresp : t.resp = 0 := congrArg State.resp habandoned.registers
      refine ⟨t, hexec, habandoned.busy, by rw [hresp]; rfl, fun hno => ?_⟩
      rw [habandoned.came.2] at hno
      cases hno

/-! ### The fault bits -/

/-- The fault action sets its own bit and keeps the others (60_exceptions.md R133). -/
theorem State.faultBit_commandFault (s : State) (c c' : FaultCode) :
    (s.commandFault c).faultBit c' = (decide (c' = c) || s.faultBit c') := by
  cases c <;> cases c' <;> rfl

theorem State.HostTouched.faultBit {s t : State} (h : s.HostTouched t) {c : FaultCode} (hc : s.faultBit c = true) :
    t.faultBit c = true := by
  cases c with
  | illegal => exact h.illegal hc
  | undefData => exact h.undefData hc
  | notInit => exact (congrArg State.fNotInit h.frame).trans hc
  | busOpen => exact (congrArg State.fBusOpen h.frame).trans hc

theorem State.faultBit_hostAccess {s : State} {c : FaultCode} (a : HostAccess) (hc : s.faultBit c = true) :
    (s.hostAccess a).faultBit c = true := by
  rcases s.hostAccess_cases a with ⟨w, -, heq⟩ | htouched
  · rw [heq]; cases c <;> exact hc
  · exact htouched.faultBit hc

/-- Settles O16: the fault action sets a bit and clears none, a completed command and a host access clear none. -/
theorem faultBitsSticky : Obligations.FaultBitsSticky := by
  refine ⟨?sticky, ?sets, ?illegal, fun s c => ⟨by cases c <;> rfl, by cases c <;> rfl⟩⟩
  case sticky =>
    intro s t c hstep hset hresets
    rcases step_cases hstep with ⟨-, hrun⟩ | ⟨⟨n, act⟩, rest, -, -, rfl⟩ | ⟨-, rfl⟩
    · rcases State.runSequencer_cases hrun with ⟨c', rfl⟩ | ⟨i, -, hcompletes⟩ | habandoned
      · rw [State.faultBit_commandFault, hset, Bool.or_true]
      · rw [hcompletes.faults, hset]
      · rw [habandoned.resets_eq] at hresets
        exact absurd hresets (Nat.succ_ne_self _)
    · cases act with
      | access a => exact State.faultBit_hostAccess (s := { s with inputs := rest }) a (by cases c <;> exact hset)
      | reset => exact absurd ((State.resetInput_resets _).symm.trans hresets) (Nat.succ_ne_self s.resets)
    · exact hset
  case sets =>
    intro i s c hfault
    refine ⟨_, (exec_outcome s i).fault c hfault, ?_⟩
    rw [State.faultBit_commandFault, decide_eq_true rfl, Bool.true_or]
  case illegal =>
    intro s k e hturn hupc hfetch
    refine ⟨s.commandFault .illegal, ?_, rfl⟩
    rw [step_of_sequencerTurn hturn, State.runSequencer, hfetch]
    simp only [State.rejected, hupc]

/-! ### Who writes which register -/

theorem State.hostAccess_init (s : State) (a : HostAccess) : (s.hostAccess a).init = s.init := by
  rcases s.hostAccess_cases a with ⟨w, -, heq⟩ | htouched
  · rw [heq]; rfl
  · exact htouched.init

/-- Settles O20: BEGIN makes no check and writes INIT, and the INIT check is the first of the other bus commands. -/
theorem initWrittenByBegin : Obligations.InitWrittenByBegin := by
  refine ⟨rfl, fun s a => ⟨rfl, s.hostAccess_init a⟩, ?writer, ?faults⟩
  case writer =>
    intro i s t hno hexec
    rcases exec_cases_of_noReset hno hexec with ⟨c, hfault, rfl⟩ | ⟨-, hcompletes⟩
    · have hbegin : i.isBegin = false := Bool.eq_false_iff.2 fun h => by
        rw [eq_of_beq h] at hfault
        cases hfault
      rw [State.commandFault_init, hbegin, Bool.false_or]
    · exact hcompletes.init
  case faults =>
    intro i s hinit hbus
    rw [(exec_outcome s i).fault _ (State.firstFault_of_not_init hinit hbus)]
    rfl

/-- Settles O21: the sizes are SETPS's and BEGIN's, and no raw command is in MODE's table. -/
theorem rawCommandsKeepShadows : Obligations.RawCommandsKeepShadows := by
  intro i s t hraw hno hexec
  rcases exec_cases_of_noReset hno hexec with ⟨c, -, rfl⟩ | ⟨-, hcompletes⟩
  · exact ⟨State.commandFault_payloadSize s c, State.commandFault_mode s c⟩
  · have hmode : modeAfter s.mode i = s.mode := by cases i <;> cases hraw <;> rfl
    refine ⟨?_, hcompletes.mode.trans hmode⟩
    rcases hcompletes.payloadSize with heq | ⟨hnot, -⟩
    · exact heq
    · rw [hraw] at hnot
      cases hnot

/-- Settles O24. -/
theorem sessionRegisterWriters : Obligations.SessionRegisterWriters := by
  intro i s t hno hexec
  rcases exec_cases_of_noReset hno hexec with ⟨c, -, rfl⟩ | ⟨-, hcompletes⟩
  · exact ⟨fun _ => s.commandFault_lastPkt c, fun _ _ => ⟨s.commandFault_lastSendOk c, s.commandFault_linkLed c⟩,
      fun heq => by rw [State.commandFault_linkLed, State.commandFault_lastSendOk, heq]⟩
  · refine ⟨hcompletes.lastPkt, fun hsend htxcycle => ?_, fun heq => ?_⟩
    · rcases hcompletes.link with hsame | ⟨hsends, -⟩
      · exact hsame
      · exact (not_or.2 ⟨hsend, htxcycle⟩ hsends).elim
    · rcases hcompletes.link with ⟨hok, hled⟩ | ⟨-, hled⟩
      · rw [hok, hled, heq]
      · exact hled

/-- Settles O28: the fault action leaves DBUF, and a completed command writes below its bound. -/
theorem dbufFrame : Obligations.DbufFrame := by
  intro i s t k hno hexec hframe
  rcases exec_cases_of_noReset hno hexec with ⟨c, -, rfl⟩ | ⟨hpass, hcompletes⟩
  · rw [State.commandFault_dbuf]
  · rcases hframe with hk | hfault
    · exact hcompletes.dbuf.frame k hk
    · exact absurd hpass hfault

end Sys2Proof.Machine
end

section
/-! The host port and the packed words, bit by bit. -/

namespace Sys2Proof.Machine

/-! ### Bytes of a word -/

/-- Byte `k` of a word stands at bits [8k+7:8k] (20_memory.md R46). -/
theorem wordBytes_getElem? (w : Word) {k : Nat} (hk : k < 4) : (wordBytes w)[k]? = some (w.extractLsb' (8 * k) 8) := by
  interval_cases k <;> rfl

/-- Settles O32: a packet's wire bytes are the bytes of its word. -/
theorem packetWordLayout : Obligations.PacketWordLayout := by
  refine ⟨fun p k hk => ?_, fun w => ?_⟩
  · have hbytes : wordBytes p.toWord = p.encode := wordBytes_wordOfBytes _ _ _ _
    rw [← hbytes, wordBytes_getElem? _ hk]
  · have htrunc : ∀ b : Byte, trunc8 b.toInt = b := fun b => BitVec.ofInt_toInt
    simp only [Packet.ofWord, Packet.decode, Packet.toWord, htrunc, wordOfBytes_fields]

/-! ### The host port -/

theorem State.extractLsb'_dbufWord (s : State) (i : Nat) {k : Nat} (hk : k < 4) :
    (s.dbufWord i).extractLsb' (8 * k) 8 = s.dbufByte (i + k) := by
  interval_cases k
  · exact fieldC_wordOfBytes _ _ _ _
  · exact fieldB_wordOfBytes _ _ _ _
  · exact fieldA_wordOfBytes _ _ _ _
  · exact fieldOp_wordOfBytes _ _ _ _

theorem State.dbufWord_eq {s : State} {i : Nat} {v : Word}
    (h : ∀ k, k < 4 → s.dbufByte (i + k) = v.extractLsb' (8 * k) 8) : s.dbufWord i = v := by
  have h₀ : s.dbufByte i = v.extractLsb' 0 8 := h 0 (by decide)
  rw [State.dbufWord, h₀, h 1 (by decide), h 2 (by decide), h 3 (by decide)]
  exact wordOfBytes_fields v

/-- An illegal read returns some value (10_state.md R15). -/
theorem State.illegalRead_eq (s : State) : ∃ r, s.illegalRead =
    { s with fIllegal := true, reads := r :: s.reads, draws := s.draws + 1 } := ⟨_, rfl⟩

theorem State.readDbuf_fIllegal (s : State) (i n : Nat) (v : Word) : (s.readDbuf i n v).fIllegal = s.fIllegal := by
  unfold State.readDbuf
  split <;> rfl

/-- Settles O8, access by access. -/
theorem hostAccessLegality : Obligations.HostAccessLegality := by
  intro s
  refine ⟨fun off v h => State.hostAccess_write8_illegal v h, fun off h => ?read8, fun off v => rfl,
    fun off => s.illegalRead_eq, fun off v h => State.hostAccess_write32_illegal v h, fun off h => ?read32,
    fun off v h ha => State.hostAccess_write32_dbuf v h ha, fun off v h ha hv => ?valid, fun off v h => ?write8Flag,
    fun off h => ?read8Flag, fun off h ha => ?read32Flag, fun v => rfl⟩
  case read8 => rw [State.hostAccess_read8_illegal h]; exact s.illegalRead_eq
  case read32 => rw [State.hostAccess_read32_illegal h]; exact s.illegalRead_eq
  case valid =>
    have hword : s.dbufWord (off.toNat - 32) = v := State.dbufWord_eq fun k hk => State.dbufByte_of_read (hv k hk)
    rw [State.hostAccess_read32_dbuf h ha, hword]
    exact State.readDbuf_valid v fun k hk hnone => nomatch hnone.symm.trans (hv k hk)
  case write8Flag => rw [State.hostAccess_write8_dbuf v h]
  case read8Flag => rw [State.hostAccess_read8_dbuf h, State.readDbuf_fIllegal]
  case read32Flag =>
    by_cases hd : 32 ≤ off.toNat
    · rw [State.hostAccess_read32_dbuf hd ha, State.readDbuf_fIllegal]
    · obtain ⟨v, hv⟩ := State.hostAccess_read32_register (s := s) (off := off) (by omega) ha
      rw [hv]

/-- Settles O9. -/
theorem hostRegisterReads : Obligations.HostRegisterReads :=
  fun _ => ⟨rfl, rfl, rfl, rfl, rfl, rfl⟩

theorem extractLsb'_zext (b : Byte) : (zext b).extractLsb' 0 8 = b := by
  apply BitVec.eq_of_getLsbD_eq
  intro i hi
  simp [zext, hi]
  omega

/-- Settles O11, by what a read after a write gives, and by whether the bytes read are valid. -/
theorem hostDbufBytes : Obligations.HostDbufBytes := by
  intro s
  refine ⟨fun off v h => ?write8, fun off v h ha => ?write32, fun off b h hb => ?read8, fun off h hn => ?read8Invalid,
    fun off h ha => ?read32⟩
  case write8 =>
    rw [State.hostAccess_write8_dbuf v h]
    refine ⟨fun i => ?_, rfl⟩
    rw [Memory.read_write]
    exact if_congr eq_comm rfl rfl
  case write32 =>
    rw [State.hostAccess_write32_dbuf v h ha]
    refine ⟨fun i => ?_, rfl⟩
    rw [Memory.read_writeAll]
    refine ite_congr rfl (fun hi => ?_) fun _ => rfl
    exact wordBytes_getElem? v (by omega)
  case read8 =>
    refine ⟨zext b, extractLsb'_zext b, ?_⟩
    rw [State.hostAccess_read8_dbuf h, State.dbufByte_of_read hb]
    refine State.readDbuf_valid _ fun k hk hnone => ?_
    obtain rfl : k = 0 := by omega
    exact nomatch hnone.symm.trans hb
  case read8Invalid =>
    refine ⟨zext (s.dbufByte (off.toNat - 32)), ?_⟩
    rw [State.hostAccess_read8_dbuf h]
    exact State.readDbuf_invalid _ ⟨0, by decide, hn⟩
  case read32 =>
    refine ⟨s.dbufWord (off.toNat - 32), fun k b hk hb => ?_, fun hvalid => ?_, fun hinvalid => ?_⟩
    · rw [State.extractLsb'_dbufWord s _ hk, State.dbufByte_of_read hb]
    · rw [State.hostAccess_read32_dbuf h ha]; exact State.readDbuf_valid _ hvalid
    · rw [State.hostAccess_read32_dbuf h ha]; exact State.readDbuf_invalid _ hinvalid

/-! ### The packed registers -/

section
variable {k : Nat}

/-- A flag of a packed register stands at its bit and nowhere else. -/
theorem getLsbD_flag (b : Bool) (n : Nat) (hk : k < 32) : (bit b <<< n).getLsbD k = (decide (k = n) && b) := by
  rw [bit, BitVec.getLsbD_shiftLeft, BitVec.getLsbD_setWidth, BitVec.getLsbD_ofBool, Bool.eq_iff_iff]
  simp only [Bool.and_eq_true, Bool.not_eq_true', decide_eq_true_eq, decide_eq_false_iff_not, Nat.sub_eq_zero_iff_le]
  constructor
  · rintro ⟨⟨-, hn⟩, -, hle, hb⟩
    exact ⟨by omega, hb⟩
  · rintro ⟨rfl, hb⟩
    exact ⟨⟨hk, by omega⟩, by omega, le_refl k, hb⟩

/-- A field of a packed register stands at its bits and nowhere else. -/
theorem getLsbD_field {w : Nat} (x : BitVec w) (n : Nat) (hk : k < 32) :
    (x.setWidth 32 <<< n).getLsbD k = (decide (n ≤ k) && x.getLsbD (k - n)) := by
  rw [BitVec.getLsbD_shiftLeft, BitVec.getLsbD_setWidth, decide_eq_true hk, decide_eq_true (by omega : k - n < 32),
    Bool.true_and, Bool.true_and, ← decide_not, decide_eq_decide.2 Nat.not_lt]

/-- The field at bit 0. -/
theorem getLsbD_setWidth_word {w : Nat} (x : BitVec w) (hk : k < 32) : (x.setWidth 32).getLsbD k = x.getLsbD k := by
  rw [BitVec.getLsbD_setWidth, decide_eq_true hk, Bool.true_and]

/-- BSTAT's bits [15:2], bit 2 first (10_state.md R21). -/
def State.statusFlags (s : State) : List Bool :=
  [s.init, s.busy, s.csn, s.ce, s.pinsDriven, s.lastSendOk, s.signalPresent, s.armed, s.prevPressed, s.fIllegal,
    s.fNotInit, s.fUndefData, s.fBusOpen, false]

/-- BSTAT as R21's table: MODE, the flags, LAST_STATUS, PAYLOAD_SIZE. -/
theorem State.getLsbD_bstat (s : State) (hk : k < 32) :
    s.bstat.getLsbD k =
      if k < 2 then s.mode.code.getLsbD k
      else if k < 16 then s.statusFlags.getD (k - 2) false
      else if k < 24 then s.lastStatus.getLsbD (k - 16)
      else s.payloadSize.getLsbD (k - 24) := by
  simp only [State.bstat, zext, BitVec.getLsbD_or, getLsbD_setWidth_word _ hk, getLsbD_flag _ _ hk,
    getLsbD_field _ _ hk]
  interval_cases k <;> simp [State.statusFlags]

/-- MOTOR as R33's table: PWM_L, PWM_R, DIR_FWD, LINK_LED. -/
theorem State.getLsbD_motor (s : State) (hk : k < 32) :
    s.motor.getLsbD k =
      if k < 8 then s.pwmL.getLsbD k
      else if k < 16 then s.pwmR.getLsbD (k - 8)
      else [s.dirFwd, s.linkLed].getD (k - 16) false := by
  simp only [State.motor, zext, BitVec.getLsbD_or, getLsbD_setWidth_word _ hk, getLsbD_flag _ _ hk,
    getLsbD_field _ _ hk]
  interval_cases k <;> simp

/-- LINK as R34's table: MISSED. -/
theorem State.getLsbD_link (s : State) (hk : k < 32) : s.link.getLsbD k = s.missed.getLsbD k :=
  getLsbD_setWidth_word _ hk

end

/-- The `w` bits of a word from bit `n` on. -/
theorem extractLsb'_eq_of_getLsbD {x : Word} {n w : Nat} {y : BitVec w}
    (h : ∀ i, i < w → x.getLsbD (n + i) = y.getLsbD i) : x.extractLsb' n w = y := by
  apply BitVec.eq_of_getLsbD_eq
  intro i hi
  rw [BitVec.getLsbD_extractLsb', decide_eq_true hi, Bool.true_and, h i hi]

theorem State.extractLsb'_bstat_mode (s : State) : s.bstat.extractLsb' 0 2 = s.mode.code :=
  extractLsb'_eq_of_getLsbD fun i hi => by rw [s.getLsbD_bstat (by omega), if_pos (by omega), Nat.zero_add]

/-- Settles O10, from the tables of the three words. -/
theorem statusWordLayout : Obligations.StatusWordLayout := by
  intro s
  have hflag : ∀ k, 2 ≤ k ∧ k < 16 → s.bstat.getLsbD k = s.statusFlags.getD (k - 2) false :=
    fun k hk => by rw [s.getLsbD_bstat (by omega), if_neg (by omega), if_pos hk.2]
  refine ⟨s.extractLsb'_bstat_mode, s.extractLsb'_bstat_mode.trans (by cases s.mode <;> rfl),
    hflag 2 (by decide), hflag 3 (by decide), hflag 4 (by decide), hflag 5 (by decide), hflag 6 (by decide),
    hflag 7 (by decide), hflag 8 (by decide), hflag 9 (by decide), hflag 10 (by decide), hflag 11 (by decide),
    hflag 12 (by decide), hflag 13 (by decide), hflag 14 (by decide), hflag 15 (by decide),
    ?status, ?size, ?reserved, ?pwmL, ?pwmR, ?forward, ?led, ?motorReserved, ?missed, ?linkReserved⟩
  case forward => exact s.getLsbD_motor (k := 16) (by decide)
  case led => exact s.getLsbD_motor (k := 17) (by decide)
  all_goals apply extractLsb'_eq_of_getLsbD; intro i hi
  case status =>
    rw [s.getLsbD_bstat (by omega), if_neg (by omega), if_neg (by omega), if_pos (by omega), Nat.add_sub_cancel_left]
  case size =>
    rw [s.getLsbD_bstat (by omega), if_neg (by omega), if_neg (by omega), if_neg (by omega), Nat.add_sub_cancel_left]
  case reserved =>
    rw [s.getLsbD_bstat (by omega), if_neg (by omega), if_neg (by omega), if_neg (by omega),
      BitVec.getLsbD_of_ge _ _ (by omega)]
    exact BitVec.getLsbD_zero.symm
  case pwmL => rw [s.getLsbD_motor (by omega), if_pos (by omega), Nat.zero_add]
  case pwmR => rw [s.getLsbD_motor (by omega), if_neg (by omega), if_pos (by omega), Nat.add_sub_cancel_left]
  case motorReserved =>
    rw [s.getLsbD_motor (by omega), if_neg (by omega), if_neg (by omega), List.getD_eq_default _ _ (by simp; omega)]
    exact BitVec.getLsbD_zero.symm
  case missed => rw [s.getLsbD_link (by omega), Nat.zero_add]
  case linkReserved =>
    rw [s.getLsbD_link (by omega), BitVec.getLsbD_of_ge _ _ (by omega)]
    exact BitVec.getLsbD_zero.symm

/-! ### An instruction placed as the next one -/

/-- The decoder sees the fields that a word of format G was built from. -/
theorem decodeWord_wordG (op a b c : Byte) : decodeWord (wordG op a b c) =
    if op < 0x10 then decodeTransport op a b c
    else if op < 0x20 then decodeRegister op a b c
    else if op < 0x30 then decodeControl op a b c
    else if op < 0x40 then decodePacket (wordG op a b c) op a b c
    else decodeConsumer (wordG op a b c) op a b c := by
  simp only [decodeWord, wordG, fieldOp_wordOfBytes, fieldA_wordOfBytes, fieldB_wordOfBytes, fieldC_wordOfBytes]

/-- The two commands of format F. -/
theorem decodeWord_wordF_frame (ax ay : BitVec 10) (trg sw : Bool) :
    decodeWord (wordF 0x30 ax ay trg sw) = .ok (.frame ax ay trg sw) := by
  simp [decodeWord, decodePacket, whenLegal]

theorem decodeWord_wordF_txcycle (ax ay : BitVec 10) (trg sw : Bool) :
    decodeWord (wordF 0x43 ax ay trg sw) = .ok (.txcycle ax ay trg sw) := by
  simp [decodeWord, decodeConsumer, whenLegal]

/-- The two SPI commands that carry a register number. -/
theorem decodeSpi_register : ∀ reg : Byte, isRegister reg = true →
    decodeSpi (0x00 ||| reg) = .ok (.spiRRegister reg) ∧ decodeSpi (0x20 ||| reg) = .ok (.spiWRegister reg) := by
  decide

/-- The decoder reads a well-formed instruction's encoding as that instruction (30_encoding.md R60, R68). -/
theorem decode_encode {i : Instr} (hwf : i.wellFormed = true) : decode (encode i) = .ok i := by
  cases i
  case frame ax ay trg sw => rw [encode, decode_wordBytes, decodeWord_wordF_frame]
  case txcycle ax ay trg sw => rw [encode, decode_wordBytes, decodeWord_wordF_txcycle]
  case spiRRegister reg => exact (decodeSpi_register reg hwf).1
  case spiWRegister reg => exact (decodeSpi_register reg hwf).2
  case spiRRxPayload | spiWTxPayload | spiFlushTx => rfl
  all_goals
    simp only [Instr.wellFormed] at hwf
    simp [encode, decode_wordBytes, decodeWord_wordG, decodeTransport, decodeRegister, decodeControl, decodePacket,
      decodeConsumer, whenLegal, hwf]

/-- What is left to come after the actions due now are dropped starts with none that is due. -/
theorem not_due_of_dropWhile {l rest : List Input} {i : Input} (h : l.dropWhile Input.due = i :: rest) :
    i.due = false := by
  have hhead := List.head?_dropWhile_not Input.due l
  rw [h] at hhead
  simpa using hhead

/-- An instruction whose bytes stand where a running sequencer fetches from runs, if nothing is due first. -/
theorem step_of_fetchBytes {s : State} {i : Instr} (hwf : i.wellFormed = true) (hbusy : s.busy = true)
    {l : List Input} (hinputs : s.inputs = l.dropWhile Input.due) (hbytes : s.fetchBytes = encode i) :
    step s = exec i s := by
  have hturn : s.sequencerTurn = true := by
    cases hrest : s.inputs with
    | nil => rw [State.sequencerTurn_of_inputs_nil hrest, hbusy]
    | cons j rest =>
      rw [State.sequencerTurn_of_inputs_cons hrest, hbusy, not_due_of_dropWhile (hinputs ▸ hrest)]
      rfl
  rw [step_of_sequencerTurn hturn, State.runSequencer_of_decode_ok (hbytes ▸ decode_encode hwf)]

/-- Settles O7: what is placed is fetched, and decoding its encoding gives the instruction back. -/
theorem placedInstructionRuns : Obligations.PlacedInstructionRuns := by
  intro s i hwf
  refine ⟨fun w hw => ?word, fun b hb => ?byte⟩
  case word =>
    have hplaced : s.withFetchWord 32 w.toNat =
        { s with inputs := s.inputs.dropWhile Input.due, cmd := w, cmdl := w, busy := true, upc := .step 0 } := by
      rw [State.withFetchWord, State.placeInstruction, if_neg (by decide), BitVec.ofNat_toNat, BitVec.setWidth_eq]
      rfl
    rw [hplaced]
    exact step_of_fetchBytes hwf rfl rfl hw.symm
  case byte =>
    have hplaced : s.withFetchWord 8 b.toNat =
        { s with inputs := s.inputs.dropWhile Input.due, busy := true, upc := .spiByte b } := by
      rw [State.withFetchWord, State.placeInstruction, if_pos (by decide), BitVec.ofNat_toNat, BitVec.setWidth_eq]
    rw [hplaced]
    exact step_of_fetchBytes hwf rfl rfl hb.symm

end Sys2Proof.Machine
end

section
/-! The bus order (20_memory.md R50 to R53): every step adds to the trace at its end, and no command but the raw CSN
leaves open a scope that it did not find open. -/

namespace Sys2Proof.Machine

variable {s t : State}

/-! ### The trace grows -/

/-- `t` has the events and the answers of `s`, with more after them at most (30_encoding.md R74). -/
def State.TraceExtends (s t : State) : Prop := s.history <:+ t.history ∧ s.answers <:+ t.answers

theorem State.TraceExtends.of_eq (hhist : t.history = s.history) (hans : t.answers = s.answers) : s.TraceExtends t := by
  rw [State.TraceExtends, hhist, hans]
  exact ⟨List.suffix_refl _, List.suffix_refl _⟩

theorem State.Grows.traceExtends (h : s.Grows t) : s.TraceExtends t := by
  obtain ⟨evs, hhist, -⟩ := h.events
  exact ⟨⟨evs, hhist.symm⟩, h.answers⟩

/-- A reset erases no event: it is one itself (70_reset_and_hazards.md R149). -/
theorem State.Abandoned.traceExtends (h : s.Abandoned t) : s.TraceExtends t := by
  obtain ⟨evs, hhist, -⟩ := h.events
  exact ⟨⟨.reset :: evs, hhist.symm⟩, h.answers⟩

theorem State.resetInput_traceExtends (s : State) : s.TraceExtends s.resetInput :=
  ⟨List.suffix_cons _ _, List.suffix_refl _⟩

theorem State.runSequencer_traceExtends (h : s.runSequencer = .next t) : s.TraceExtends t := by
  obtain ⟨t', -, hrun, -, ⟨-, -, hgrows, -⟩ | habandoned⟩ := s.runSequencer_ends <;> cases h.symm.trans hrun
  · exact hgrows.traceExtends
  · exact habandoned.traceExtends

/-- A host access is no event on the bus. -/
theorem State.hostAccess_traceExtends (s : State) (a : HostAccess) : s.TraceExtends (s.hostAccess a) := by
  rcases s.hostAccess_cases a with ⟨w, -, heq⟩ | htouched
  · rw [heq]; exact .of_eq rfl rfl
  · rw [htouched.frame]; exact .of_eq rfl rfl

/-- Settles O26: a command, a host access and a reset each extend the trace, and a step is one of these or empty. -/
theorem historyOnlyGrows : Obligations.HistoryOnlyGrows := by
  intro s t hstep
  rcases step_cases hstep with ⟨-, hrun⟩ | ⟨i, rest, -, -, rfl⟩ | ⟨-, rfl⟩
  · exact State.runSequencer_traceExtends hrun
  · cases i.act with
    | access a => exact State.hostAccess_traceExtends { s with inputs := rest } a
    | reset => exact State.resetInput_traceExtends { s with inputs := rest }
  · exact State.TraceExtends.of_eq rfl rfl

/-! ### Chip-select, kept or deasserted -/

/-- Chip-select stands in `t` at the level it had in `s`, or deasserted. -/
def State.CsnKept (s t : State) : Prop := t.csn = s.csn ∨ t.csn = true

/-- A reset deasserts chip-select (70_reset_and_hazards.md R148). -/
theorem State.Abandoned.csn (h : s.Abandoned t) : t.csn = true := by
  rw [h.registers]; rfl

/-- A step leaves chip-select as its effect does, unless a reset lands at its boundary. -/
theorem State.csn_tick (f : State → State) (hb : s.busy = true) :
    (s.tick f).csn = (f s).csn ∨ (s.tick f).csn = true := by
  simp only [State.tick, hb, if_true]
  rcases (f s).counted.boundary_cases with ⟨ins, made, heq, -⟩ | ⟨-, ins, rds, heq⟩
  · rw [heq]; exact .inl rfl
  · rw [heq]; exact .inr rfl

namespace State.CsnKept

theorem refl (s : State) : s.CsnKept s := .inl rfl

theorem of_deasserted (h : t.csn = true) : s.CsnKept t := .inr h

/-- What keeps chip-select keeps it deasserted. -/
theorem deasserted (h : s.CsnKept t) (hs : s.csn = true) : t.csn = true := h.elim (·.trans hs) id

theorem trans {u : State} (h : s.CsnKept t) (h' : t.CsnKept u) : s.CsnKept u := by
  rcases h' with heq | hhigh
  · rw [State.CsnKept, heq]; exact h
  · exact .inr hhigh

theorem tick (h : s.CsnKept t) {f : State → State} (hf : ∀ u : State, (f u).csn = u.csn) :
    s.CsnKept (t.tick f) := by
  cases hb : t.busy with
  | false => rwa [State.tick_idle hb]
  | true =>
    have hstep := State.csn_tick f hb
    rw [hf] at hstep
    exact h.trans hstep

theorem assign (h : s.CsnKept t) {f : State → State} (hf : ∀ u : State, (f u).csn = u.csn) :
    s.CsnKept (t.assign f) := by
  cases hb : t.busy with
  | false => rwa [State.assign_idle hb]
  | true =>
    rw [State.assign_busy hb]
    exact h.trans (.inl (hf t))

theorem wait (h : s.CsnKept t) (us : Nat) : s.CsnKept (t.wait us) := h.tick fun _ => rfl

end State.CsnKept

/-! ### The end of a scope -/

/-- `Select(0)` deasserts chip-select while the command runs. -/
theorem State.csn_select_false (hb : s.busy = true) : (s.select false).csn = true :=
  ((CsnKept.refl _).wait Config.tCsnUs).deasserted ((State.csn_tick _ hb).elim id id)

/-- Whatever the outside world does, a running command that reaches a `Select(0)` has chip-select deasserted after it:
the line is driven, or a reset has abandoned the command before. -/
theorem State.csn_select_false_after {f : State → State} (hf : Interruptible f) (hb : s.busy = true) :
    ((f s).select false).csn = true := by
  rcases hf s with ⟨hidle, -⟩ | ⟨-, hbusy, -⟩ | ⟨-, habandoned⟩
  · cases hidle.symm.trans hb
  · exact State.csn_select_false hbusy
  · rw [(Interruptible.select false (f s)).idle habandoned.busy]
    exact habandoned.csn

namespace State.CsnKept

/-- A scope that is opened is closed, whatever its body does in it (20_memory.md R50). -/
theorem scope (h : s.CsnKept t) {body : State → State} (hbody : Interruptible body) : s.CsnKept (t.scope body) := by
  cases hb : t.busy with
  | false => rwa [(Interruptible.scope hbody t).idle hb]
  | true =>
    have hopened : Interruptible fun s => body (s.select true) := hbody.comp (.select true)
    have hclosed := State.csn_select_false_after hopened hb
    exact .of_deasserted hclosed

/-! ### Steps, assignments and scopes of the bodies -/

section
variable (h : s.CsnKept t)
include h

theorem enable (l : Bool) : s.CsnKept (t.enable l) := h.tick fun _ => rfl

theorem getTmp (b : Byte) : s.CsnKept (t.getTmp b) := h.tick fun _ => rfl

theorem commandByte (b : Byte) : s.CsnKept (t.commandByte b) := h.tick fun _ => rfl

theorem readT0 : s.CsnKept t.readT0 := h.tick fun _ => rfl

theorem readPollClock (start : Nat) (last : Bool) : s.CsnKept (t.readPollClock start last) := h.tick fun _ => rfl

theorem respond (v : State → Word) : s.CsnKept (t.respond v) := h.assign fun _ => rfl

theorem finish : s.CsnKept t.finish := h.assign fun _ => rfl

theorem setMode (m : Mode) : s.CsnKept (t.setMode m) := h.assign fun _ => rfl

theorem storePacket (p : Packet) : s.CsnKept (t.storePacket p) := h.assign fun _ => rfl

theorem edgeStep (p : Bool) : s.CsnKept (t.edgeStep p) := h.assign fun _ => rfl

theorem motorOut (p : Packet) : s.CsnKept (t.motorOut p) := h.assign fun _ => rfl

theorem losStep (got : Option Packet) : s.CsnKept (t.losStep got) := h.assign fun _ => by cases got <;> rfl

theorem writeReg (reg : Byte) (bytes : List Byte) : s.CsnKept (t.writeReg reg bytes) :=
  h.scope ((Interruptible.putBytes bytes).comp (.commandByte _))

theorem writeReg1 (reg v : Byte) : s.CsnKept (t.writeReg1 reg v) := h.writeReg reg [v]

theorem clearFlags (m : Byte) : s.CsnKept (t.clearFlags m) := h.writeReg1 _ m

theorem readReg1 (reg : Byte) : s.CsnKept (t.readReg1 reg) := h.scope ((Interruptible.getTmp _).comp (.commandByte _))

theorem readRegs (reg : Byte) (n : Nat) :
    s.CsnKept (t.scope fun s => (s.commandByte (Config.cmdReadRegister reg)).getBytes n 0) :=
  h.scope ((Interruptible.getBytes n 0).comp (.commandByte _))

theorem flushTx : s.CsnKept t.flushTx := h.scope (.commandByte _)

theorem writePayload (c : Byte) (n : Nat) : s.CsnKept (t.writePayload c n) :=
  h.scope ((Interruptible.putBytes _).comp (.commandByte c))

theorem readPayload (n : Nat) : s.CsnKept (t.readPayload n) :=
  h.scope ((Interruptible.putBytes _).comp ((Interruptible.getBytes _ 0).comp (.commandByte _)))

/-! ### Bodies -/

theorem configRmw (set clear : Byte) : s.CsnKept (t.configRmw set clear) := (h.readReg1 _).writeReg1 _ _

theorem stopListening : s.CsnKept t.stopListening := (((h.enable false).configRmw _ _).wait _).setMode _

theorem foldl_writeReg1 (regs : List Nat) (reg : Nat → Byte) (v : Byte) :
    s.CsnKept (regs.foldl (fun u p => u.writeReg1 (reg p) v) t) := by
  induction regs generalizing t with
  | nil => exact h
  | cons p regs ih => exact ih (h.writeReg1 (reg p) v)

theorem setPayloadSize (c : Nat) : s.CsnKept (t.setPayloadSize c) := by
  have hshadow : s.CsnKept (t.assign fun s => { s with payloadSize := BitVec.ofNat 6 (sizeOf c) }) :=
    h.assign fun _ => rfl
  exact hshadow.foldl_writeReg1 _ Config.regRxPw _

theorem frameBody (ax ay : BitVec 10) (trg sw : Bool) : s.CsnKept (t.frameBody ax ay trg sw) :=
  (h.storePacket _).respond _

theorem openPipe (pipe : Nat) : s.CsnKept (t.openPipe pipe) := ((h.writeReg _ _).readReg1 _).writeReg1 _ _

theorem consume (got : Option Packet) : s.CsnKept (t.consume got) := ((h.losStep got).motorOut _).storePacket _

theorem receive : s.CsnKept t.receive.1 := by
  have hpolled := h.readReg1 Config.regStatus
  unfold State.receive
  dsimp only
  split
  · exact (hpolled.readPayload Config.packetLen).clearFlags Config.maskRxDr
  · exact hpolled

theorem poll (head : SeqPos) (start : Nat) (last : Bool) : s.CsnKept (t.poll head start last).1 := by
  have hhead : s.CsnKept (t.assign fun s => { s with upc := head }) := h.assign fun _ => rfl
  have hpolled := hhead.readReg1 Config.regStatus
  unfold State.poll
  dsimp only
  split_ifs with hack hnack hlate
  · exact hpolled.clearFlags _
  · exact hpolled.flushTx.clearFlags _
  · exact (hpolled.readPollClock start last).flushTx
  · exact (hpolled.readPollClock start last).wait _

theorem pollLoop (patience : Nat) (head : SeqPos) (start : Nat) :
    s.CsnKept (t.pollLoop patience head start).1 := by
  induction patience generalizing t with
  | zero => exact h.poll head start true
  | succ patience ih =>
    have hpolled := h.poll head start false
    rw [State.pollLoop]
    split <;> rename_i hpoll <;> rw [hpoll] at hpolled
    · exact hpolled
    · exact ih hpolled

theorem sendPrologue (n : Nat) : s.CsnKept (t.sendPrologue n) :=
  ((((h.stopListening.writePayload _ n).enable true).wait _).enable false).readT0

theorem sendBody (n : Nat) : s.CsnKept (t.sendBody n) := by
  unfold State.sendBody
  exact ((h.sendPrologue n).pollLoop _ _ _).assign fun _ => rfl

end

end State.CsnKept

/-! ### Commands -/

/-- A command is its first failing check's fault, or its body between `start` and `finish`. -/
theorem State.command_cases {check : Option FaultCode} {body : State → State} (h : s.command check body = .next t) :
    (∃ c, check = some c ∧ t = s.commandFault c) ∨ check = none ∧ t = (body s.start).finish := by
  cases check with
  | some c => exact .inl ⟨c, rfl, (Host.Outcome.next.inj h).symm⟩
  | none => exact .inr ⟨rfl, (Host.Outcome.next.inj h).symm⟩

/-- A command's own `start` and `finish`, and a fault, leave chip-select to its body. -/
theorem State.CsnKept.of_command {check : Option FaultCode} {body : State → State}
    (h : s.command check body = .next t) (hbody : s.start.CsnKept (body s.start)) : s.CsnKept t := by
  rcases State.command_cases h with ⟨c, -, rfl⟩ | ⟨-, rfl⟩
  · exact .inl (s.commandFault_csn c)
  · exact hbody.finish

/-- BEGIN drives chip-select high before its first scope (43_transceiver_control.md R90). -/
theorem State.csn_beginPowerUp (hb : s.busy = true) : s.beginPowerUp.csn = true := by
  have hdriven : Interruptible fun s : State => (s.assign fun s => { s with pinsDriven := true }).enable false :=
    (Interruptible.enable false).comp (.assign (.assignment (fun _ => rfl) (fun _ => rfl) (fun _ => rfl) (fun _ => rfl)
      fun _ => ⟨rfl, rfl, rfl, rfl⟩))
  have hclosed := State.csn_select_false_after hdriven hb
  exact (((CsnKept.refl _).writeReg1 _ _).wait _).deasserted hclosed

theorem csn_of_exec_beginLink (h : exec .beginLink s = .next t) : t.csn = true := by
  unfold exec execBegin at h
  obtain ⟨c, hc, -⟩ | ⟨-, ht⟩ := State.command_cases h
  · cases hc
  have hup : s.start.beginPowerUp.csn = true := State.csn_beginPowerUp rfl
  have hrest := (((State.CsnKept.refl s.start.beginPowerUp).setPayloadSize Config.payloadDefault).writeReg1
    Config.regEnAa 0x01).writeReg1 Config.regEnRxaddr 0x01
  have hend := (hrest.assign (f := fun s => { s with mode := .standby, init := true, resp := 0 }) fun _ => rfl).finish
  rw [ht]
  exact hend.deasserted hup

/-- Every instruction but CSN. -/
theorem State.CsnKept.of_exec {i : Instr} (hi : ∀ a, i ≠ .csn a) (h : exec i s = .next t) : s.CsnKept t := by
  have h0 := State.CsnKept.refl s.start
  cases i with
  | xfer c =>
    unfold exec execXfer at h
    exact .of_command h ((h0.getTmp c).respond _)
  | csn a => exact absurd rfl (hi a)
  | ce a =>
    unfold exec execCe at h
    exact .of_command h ((h0.enable _).respond _)
  | wreg a b =>
    unfold exec execWreg at h
    exact .of_command h ((h0.writeReg _ _).respond _)
  | rreg a =>
    unfold exec execRreg at h
    exact .of_command h ((h0.readReg1 _).respond _)
  | rregb a b =>
    unfold exec execRregb at h
    exact .of_command h ((h0.readRegs _ _).respond _)
  | wpay b c =>
    unfold exec execWpay at h
    exact .of_command h ((h0.writePayload _ _).respond _)
  | rpay b =>
    unfold exec execRpay at h
    exact .of_command h ((h0.readPayload _).respond _)
  | flushtx =>
    unfold exec execFlushtx at h
    exact .of_command h (h0.flushTx.respond _)
  | beginLink => exact .of_deasserted (csn_of_exec_beginLink h)
  | setch c =>
    unfold exec execSetch at h
    exact .of_command h ((h0.writeReg1 _ _).respond _)
  | setps c =>
    unfold exec execSetps at h
    exact .of_command h ((h0.setPayloadSize _).respond _)
  | openw =>
    unfold exec execOpenw at h
    exact .of_command h (((h0.writeReg _ _).writeReg _ _).respond _)
  | openr a =>
    simp only [exec, execOpenr] at h
    split at h
    · exact .of_command h (h0.respond _)
    · exact .of_command h ((h0.openPipe _).respond _)
  | startl =>
    unfold exec execStartl at h
    exact .of_command h (((((h0.configRmw _ _).enable _).wait _).setMode _).respond _)
  | stopl =>
    unfold exec execStopl at h
    exact .of_command h (h0.stopListening.respond _)
  | frame ax ay trg sw =>
    unfold exec execFrame at h
    exact .of_command h (h0.frameBody ax ay trg sw)
  | send b =>
    unfold exec execSend at h
    exact .of_command h (h0.sendBody _)
  | avail =>
    unfold exec execAvail at h
    exact .of_command h ((h0.readReg1 _).respond _)
  | read b =>
    unfold exec execRead at h
    exact .of_command h (((h0.readPayload _).clearFlags _).respond _)
  | debounce a =>
    unfold exec execDebounce at h
    exact .of_command h ((h0.edgeStep _).respond _)
  | rxcycle a =>
    unfold exec execRxcycle at h
    exact .of_command h ((((h0.edgeStep _).receive.consume _).wait _).respond _)
  | motormap =>
    unfold exec execMotormap at h
    exact .of_command h ((h0.motorOut _).respond _)
  | txcycle ax ay trg sw =>
    unfold exec execTxcycle at h
    exact .of_command h (((h0.frameBody ax ay trg sw).sendBody _).wait _)
  | spiRRegister | spiWRegister | spiRRxPayload | spiWTxPayload | spiFlushTx =>
    cases h
    exact (h0.commandByte _).finish

/-- Settles O27: a composite command past its checks finds chip-select deasserted, and so leaves it there; BEGIN
deasserts it. -/
theorem compositeCommandsCloseScopes : Obligations.CompositeCommandsCloseScopes := by
  refine ⟨fun i s t => State.CsnKept.of_exec, fun i s t hclass hpass hexec => ?_⟩
  rcases Bool.or_eq_true _ _ ▸ hclass with hcomposite | hbegin
  · obtain ⟨-, hclosed, -⟩ := State.firstFault_none_composite hcomposite hpass
    have hi : ∀ a, i ≠ .csn a := by rintro a rfl; cases hcomposite
    exact (State.CsnKept.of_exec hi hexec).deasserted hclosed
  · cases eq_of_beq hbegin
    exact csn_of_exec_beginLink hexec

end Sys2Proof.Machine
end

section
/-! The encoding (30_encoding.md R56 to R63, R68): what decodes is what some row of the opcode table selects, and the
fields of it are the instruction's operands. The decoder's left inverse `decode_encode` stands above. -/

namespace Sys2Proof

/-! ### Words by their fields -/

/-- A word is fixed by its four fields (R57). -/
theorem word_eq_iff {x y : Word} :
    x = y ↔ fieldOp x = fieldOp y ∧ fieldA x = fieldA y ∧ fieldB x = fieldB y ∧ fieldC x = fieldC y := by
  refine ⟨fun h => h ▸ ⟨rfl, rfl, rfl, rfl⟩, fun ⟨hop, ha, hb, hc⟩ => ?_⟩
  rw [← wordG_fields x, hop, ha, hb, hc, wordG_fields]

theorem word_eq_zero_iff {w : Word} : w = 0 ↔ fieldOp w = 0 ∧ fieldA w = 0 ∧ fieldB w = 0 ∧ fieldC w = 0 :=
  word_eq_iff

theorem fieldOp_and (x y : Word) : fieldOp (x &&& y) = fieldOp x &&& fieldOp y := BitVec.extractLsb'_and
theorem fieldA_and (x y : Word) : fieldA (x &&& y) = fieldA x &&& fieldA y := BitVec.extractLsb'_and
theorem fieldB_and (x y : Word) : fieldB (x &&& y) = fieldB x &&& fieldB y := BitVec.extractLsb'_and
theorem fieldC_and (x y : Word) : fieldC (x &&& y) = fieldC x &&& fieldC y := BitVec.extractLsb'_and

theorem isLevel_iff : ∀ a : Byte, isLevel a = true ↔ a &&& 0xFE = 0 := by decide

theorem isRegister_iff : ∀ a : Byte, isRegister a = true ↔ a &&& 0xE0 = 0 := by decide

/-- A mask of all ones keeps a byte. -/
theorem and_0xFF : ∀ b : Byte, b &&& 0xFF = b := by decide

/-- The reserved bits of format F are bits 3 and 2 of the lowest byte (R58). -/
theorem fieldZ_eq_zero_iff (w : Word) : fieldZ w = 0 ↔ fieldC w &&& 0x0C = 0 := by
  have hbits : ∀ c : Byte, c.extractLsb' 2 2 = 0 ↔ c &&& 0x0C = 0 := by decide
  rw [← hbits, fieldC, BitVec.extractLsb'_extractLsb'_of_le (by decide)]
  rfl

/-- The bytes of a word whose fields of format G are known. -/
theorem wordBytes_wordG {w : Word} {op a b c : Byte} (hop : fieldOp w = op) (ha : fieldA w = a) (hb : fieldB w = b)
    (hc : fieldC w = c) : wordBytes (wordG op a b c) = wordBytes w := by
  rw [← hop, ← ha, ← hb, ← hc, wordG_fields]

/-- The bytes of a word of format F. -/
theorem wordBytes_wordF {w : Word} {op : Byte} (hop : fieldOp w = op) (hz : fieldZ w = 0) :
    wordBytes (wordF op (fieldAx w) (fieldAy w) (fieldTrg w) (fieldSw w)) = wordBytes w := by
  rw [← hop, wordF_fields w hz]

/-! ### The rows of the opcode table (R60) -/

/-- Every row's mask holds OP, and its pattern is OP alone. -/
theorem commandTable_masks : ∀ r ∈ commandTable, fieldOp r.mask = 0xFF ∧ fieldA r.pattern = 0 ∧ fieldB r.pattern = 0 ∧
    fieldC r.pattern = 0 := by decide

/-- No two rows have one OP. -/
theorem eq_of_fieldOp_pattern : ∀ r₁ ∈ commandTable, ∀ r₂ ∈ commandTable,
    fieldOp r₁.pattern = fieldOp r₂.pattern → r₁ = r₂ := by decide

variable {r : OpcodeRow} {w : Word}

/-- A row selects the words of its OP whose other bits are 0 where its mask is 1, field by field. -/
theorem selects_iff_fields (hr : r ∈ commandTable) : r.selects w = true ↔
    fieldOp w = fieldOp r.pattern ∧ fieldA w &&& fieldA r.mask = 0 ∧ fieldB w &&& fieldB r.mask = 0 ∧
      fieldC w &&& fieldC r.mask = 0 := by
  obtain ⟨hop, ha, hb, hc⟩ := commandTable_masks r hr
  rw [OpcodeRow.selects, decide_eq_true_eq, word_eq_iff, fieldOp_and, fieldA_and, fieldB_and, fieldC_and, hop, ha, hb,
    hc, and_0xFF]

/-- The same, the bits below OP at once. -/
theorem selects_iff (hr : r ∈ commandTable) : r.selects w = true ↔
    fieldOp r.pattern = fieldOp w ∧ w &&& (r.mask &&& 0x00FFFFFF) = 0 := by
  have hop : fieldOp 0x00FFFFFF = 0 := rfl
  have hzero : ∀ b : Byte, b &&& 0 = 0 := fun _ => BitVec.and_zero
  have ha : ∀ b : Byte, b &&& fieldA 0x00FFFFFF = b := and_0xFF
  have hb : ∀ b : Byte, b &&& fieldB 0x00FFFFFF = b := and_0xFF
  have hc : ∀ b : Byte, b &&& fieldC 0x00FFFFFF = b := and_0xFF
  rw [selects_iff_fields hr, eq_comm]
  simp only [word_eq_zero_iff, fieldOp_and, fieldA_and, fieldB_and, fieldC_and, hop, hzero, ha, hb, hc, true_and]

/-- No two rows select one word. -/
theorem eq_of_selects {r₁ r₂ : OpcodeRow} (hr₁ : r₁ ∈ commandTable) (hr₂ : r₂ ∈ commandTable)
    (h₁ : r₁.selects w = true) (h₂ : r₂.selects w = true) : r₁ = r₂ :=
  eq_of_fieldOp_pattern r₁ hr₁ r₂ hr₂ (((selects_iff hr₁).1 h₁).1.trans ((selects_iff hr₂).1 h₂).1.symm)

/-- A word that a row selects encodes a well-formed instruction of that row: its free fields are the operands (R60,
R63). -/
theorem exists_encode_of_selects (hr : r ∈ commandTable) (h : r.selects w = true) :
    ∃ i : Instr, i.wellFormed = true ∧ i.mnemonic = r.mnemonic ∧ encode i = wordBytes w := by
  obtain ⟨hop, ha, hb, hc⟩ := (selects_iff_fields hr).1 h
  have hzero : ∀ {b : Byte}, b &&& 0xFF = 0 → b = 0 := fun h => (and_0xFF _).symm.trans h
  simp only [commandTable, List.mem_cons, List.not_mem_nil, or_false] at hr
  rcases hr with rfl | rfl | rfl | rfl | rfl | rfl | rfl | rfl | rfl | rfl | rfl | rfl |
    rfl | rfl | rfl | rfl | rfl | rfl | rfl | rfl | rfl | rfl | rfl | rfl
  · exact ⟨.xfer (fieldC w), rfl, rfl, wordBytes_wordG hop (hzero ha) (hzero hb) rfl⟩
  · exact ⟨.csn (fieldA w), (isLevel_iff _).2 ha, rfl, wordBytes_wordG hop rfl (hzero hb) (hzero hc)⟩
  · exact ⟨.ce (fieldA w), (isLevel_iff _).2 ha, rfl, wordBytes_wordG hop rfl (hzero hb) (hzero hc)⟩
  · exact ⟨.wreg (fieldA w) (fieldB w), (isRegister_iff _).2 ha, rfl, wordBytes_wordG hop rfl rfl (hzero hc)⟩
  · exact ⟨.rreg (fieldA w), (isRegister_iff _).2 ha, rfl, wordBytes_wordG hop rfl (hzero hb) (hzero hc)⟩
  · exact ⟨.rregb (fieldA w) (fieldB w), (isRegister_iff _).2 ha, rfl, wordBytes_wordG hop rfl rfl (hzero hc)⟩
  · exact ⟨.wpay (fieldB w) (fieldC w), rfl, rfl, wordBytes_wordG hop (hzero ha) rfl rfl⟩
  · exact ⟨.rpay (fieldB w), rfl, rfl, wordBytes_wordG hop (hzero ha) rfl (hzero hc)⟩
  · exact ⟨.flushtx, rfl, rfl, wordBytes_wordG hop (hzero ha) (hzero hb) (hzero hc)⟩
  · exact ⟨.beginLink, rfl, rfl, wordBytes_wordG hop (hzero ha) (hzero hb) (hzero hc)⟩
  · exact ⟨.setch (fieldC w), rfl, rfl, wordBytes_wordG hop (hzero ha) (hzero hb) rfl⟩
  · exact ⟨.setps (fieldC w), rfl, rfl, wordBytes_wordG hop (hzero ha) (hzero hb) rfl⟩
  · exact ⟨.openw, rfl, rfl, wordBytes_wordG hop (hzero ha) (hzero hb) (hzero hc)⟩
  · exact ⟨.openr (fieldA w), rfl, rfl, wordBytes_wordG hop rfl (hzero hb) (hzero hc)⟩
  · exact ⟨.startl, rfl, rfl, wordBytes_wordG hop (hzero ha) (hzero hb) (hzero hc)⟩
  · exact ⟨.stopl, rfl, rfl, wordBytes_wordG hop (hzero ha) (hzero hb) (hzero hc)⟩
  · exact ⟨.frame (fieldAx w) (fieldAy w) (fieldTrg w) (fieldSw w), rfl, rfl,
      wordBytes_wordF hop ((fieldZ_eq_zero_iff w).2 hc)⟩
  · exact ⟨.send (fieldB w), rfl, rfl, wordBytes_wordG hop (hzero ha) rfl (hzero hc)⟩
  · exact ⟨.avail, rfl, rfl, wordBytes_wordG hop (hzero ha) (hzero hb) (hzero hc)⟩
  · exact ⟨.read (fieldB w), rfl, rfl, wordBytes_wordG hop (hzero ha) rfl (hzero hc)⟩
  · exact ⟨.debounce (fieldA w), (isLevel_iff _).2 ha, rfl, wordBytes_wordG hop rfl (hzero hb) (hzero hc)⟩
  · exact ⟨.rxcycle (fieldA w), (isLevel_iff _).2 ha, rfl, wordBytes_wordG hop rfl (hzero hb) (hzero hc)⟩
  · exact ⟨.motormap, rfl, rfl, wordBytes_wordG hop (hzero ha) (hzero hb) (hzero hc)⟩
  · exact ⟨.txcycle (fieldAx w) (fieldAy w) (fieldTrg w) (fieldSw w), rfl, rfl,
      wordBytes_wordF hop ((fieldZ_eq_zero_iff w).2 hc)⟩

/-! ### What the decoder accepts -/

/-- Whatever instruction is read is well formed and has the word's bytes as its encoding. -/
def Reads (w : Word) (result : Except DecodeError Instr) : Prop :=
  ∀ i, result = .ok i → encode i = wordBytes w ∧ i.wellFormed = true

theorem Reads.error (e : DecodeError) : Reads w (.error e) := nofun

theorem Reads.ite {p : Prop} [Decidable p] {d₁ d₂ : Except DecodeError Instr} (h₁ : Reads w d₁) (h₂ : Reads w d₂) :
    Reads w (if p then d₁ else d₂) := by
  split
  · exact h₁
  · exact h₂

/-- One opcode of a family: it is enough that the instruction is well formed and encodes to the word where the opcode is
the word's and the fields are legal. -/
theorem Reads.opcode {op k : Byte} {legal : Bool} {i : Instr} {rest : Except DecodeError Instr}
    (hread : op = k → legal = true → encode i = wordBytes w ∧ i.wellFormed = true) (hrest : Reads w rest) :
    Reads w (if op = k then whenLegal op legal i else rest) := by
  split
  · rename_i hop
    intro j hj
    obtain ⟨hlegal, rfl⟩ := whenLegal_ok hj
    exact hread hop hlegal
  · exact hrest

theorem reads_decodeTransport (w : Word) : Reads w (decodeTransport (fieldOp w) (fieldA w) (fieldB w) (fieldC w)) := by
  refine .opcode ?xfer <| .opcode ?csn <| .opcode ?ce <| .error _
  all_goals simp +contextual [encode, wordBytes, wordG, Instr.wellFormed]

theorem reads_decodeRegister (w : Word) : Reads w (decodeRegister (fieldOp w) (fieldA w) (fieldB w) (fieldC w)) := by
  refine .opcode ?wreg <| .opcode ?rreg <| .opcode ?rregb <| .opcode ?wpay <| .opcode ?rpay <| .opcode ?flushtx <|
    .error _
  all_goals simp +contextual [encode, wordBytes, wordG, Instr.wellFormed]

theorem reads_decodeControl (w : Word) : Reads w (decodeControl (fieldOp w) (fieldA w) (fieldB w) (fieldC w)) := by
  refine .opcode ?beginLink <| .opcode ?setch <| .opcode ?setps <| .opcode ?openw <| .opcode ?openr <|
    .opcode ?startl <| .opcode ?stopl <| .error _
  all_goals simp +contextual [encode, wordBytes, wordG, Instr.wellFormed]

theorem reads_decodePacket (w : Word) : Reads w (decodePacket w (fieldOp w) (fieldA w) (fieldB w) (fieldC w)) := by
  refine .opcode ?frame <| .opcode ?send <| .opcode ?avail <| .opcode ?read <| .error _
  case frame => exact fun hop hz => ⟨wordBytes_wordF hop (of_decide_eq_true hz), rfl⟩
  all_goals simp +contextual [encode, wordBytes, wordG, Instr.wellFormed]

theorem reads_decodeConsumer (w : Word) : Reads w (decodeConsumer w (fieldOp w) (fieldA w) (fieldB w) (fieldC w)) := by
  refine .opcode ?debounce <| .opcode ?rxcycle <| .opcode ?motormap <| .opcode ?txcycle <| .error _
  case txcycle => exact fun hop hz => ⟨wordBytes_wordF hop (of_decide_eq_true hz), rfl⟩
  all_goals simp +contextual [encode, wordBytes, wordG, Instr.wellFormed]

theorem reads_decodeWord (w : Word) : Reads w (decodeWord w) :=
  .ite (reads_decodeTransport w) <| .ite (reads_decodeRegister w) <| .ite (reads_decodeControl w) <|
    .ite (reads_decodePacket w) (reads_decodeConsumer w)

/-- The same of the SPI command bytes (R68). -/
theorem encode_of_decodeSpi {b : Byte} {i : Instr} (h : decodeSpi b = .ok i) :
    encode i = [b] ∧ i.wellFormed = true := by
  have hregister : ∀ b : Byte, isRegister (b &&& 0x1F) = true ∧ (b &&& 0xE0) ||| (b &&& 0x1F) = b := by decide
  unfold decodeSpi at h
  split_ifs at h with hread hwrite hrx htx hflush <;> cases h
  · exact ⟨congrArg ([·]) (hread ▸ (hregister b).2), (hregister b).1⟩
  · exact ⟨congrArg ([·]) (hwrite ▸ (hregister b).2), (hregister b).1⟩
  · exact ⟨hrx ▸ rfl, rfl⟩
  · exact ⟨htx ▸ rfl, rfl⟩
  · exact ⟨hflush ▸ rfl, rfl⟩

/-- What the decoder accepts is well formed and is the encoding of what it reads. -/
theorem encode_of_decode {bytes : List Byte} {i : Instr} (h : decode bytes = .ok i) :
    encode i = bytes ∧ i.wellFormed = true := by
  match bytes with
  | [b] => exact encode_of_decodeSpi h
  | [b0, b1, b2, b3] =>
    rw [← wordBytes_wordOfBytes]
    exact reads_decodeWord _ i h
  | [] | [_, _] | [_, _, _] | _ :: _ :: _ :: _ :: _ :: _ => cases h

/-! ### The table and the decoder -/

/-- Every instruction has its row. -/
theorem tableRow (i : Instr) : Laws.TableRow.Statement i := by
  cases i with
  | xfer c => exact Laws.TableRow.xfer c
  | csn a => exact Laws.TableRow.csn a
  | ce a => exact Laws.TableRow.ce a
  | wreg a b => exact Laws.TableRow.wreg a b
  | rreg a => exact Laws.TableRow.rreg a
  | rregb a b => exact Laws.TableRow.rregb a b
  | wpay b c => exact Laws.TableRow.wpay b c
  | rpay b => exact Laws.TableRow.rpay b
  | flushtx => exact Laws.TableRow.flushtx
  | beginLink => exact Laws.TableRow.beginLink
  | setch c => exact Laws.TableRow.setch c
  | setps c => exact Laws.TableRow.setps c
  | openw => exact Laws.TableRow.openw
  | openr a => exact Laws.TableRow.openr a
  | startl => exact Laws.TableRow.startl
  | stopl => exact Laws.TableRow.stopl
  | frame ax ay trg sw => exact Laws.TableRow.frame ax ay trg sw
  | send b => exact Laws.TableRow.send b
  | avail => exact Laws.TableRow.avail
  | read b => exact Laws.TableRow.read b
  | debounce a => exact Laws.TableRow.debounce a
  | rxcycle a => exact Laws.TableRow.rxcycle a
  | motormap => exact Laws.TableRow.motormap
  | txcycle ax ay trg sw => exact Laws.TableRow.txcycle ax ay trg sw
  | spiRRegister reg => exact Laws.TableRow.spiRRegister reg
  | spiWRegister reg => exact Laws.TableRow.spiWRegister reg
  | spiRRxPayload => exact Laws.TableRow.spiRRxPayload
  | spiWTxPayload => exact Laws.TableRow.spiWTxPayload
  | spiFlushTx => exact Laws.TableRow.spiFlushTx

theorem wordBytes_injective : Function.Injective wordBytes := by
  intro x y h
  simp only [wordBytes, List.cons.injEq, and_true] at h
  obtain ⟨hc, hb, ha, hop⟩ := h
  exact word_eq_iff.2 ⟨hop, ha, hb, hc⟩

/-- A word that a well-formed instruction encodes to is selected by its row. -/
theorem exists_selects_of_encode {i : Instr} (hwf : i.wellFormed = true) (henc : encode i = wordBytes w) :
    ∃ r ∈ commandTable, r.selects w = true := by
  rcases tableRow i hwf with ⟨w', r, henc', hr, -, hsel⟩ | ⟨b, r, henc', -⟩
  · obtain rfl : w = w' := wordBytes_injective (henc.symm.trans henc')
    exact ⟨r, hr, hsel⟩
  · cases henc.symm.trans henc'

/-- Some row selects a word exactly when it decodes (R61, R73). -/
theorem exists_selects_iff_decode_ok (w : Word) :
    (∃ r ∈ commandTable, r.selects w = true) ↔ ∃ i, decode (wordBytes w) = .ok i := by
  constructor
  · rintro ⟨r, hr, hsel⟩
    obtain ⟨i, hwf, -, henc⟩ := exists_encode_of_selects hr hsel
    exact ⟨i, henc ▸ Machine.decode_encode hwf⟩
  · rintro ⟨i, hdec⟩
    obtain ⟨henc, hwf⟩ := encode_of_decode hdec
    exact exists_selects_of_encode hwf henc

theorem no_row_selects_iff_decode_error (w : Word) :
    (∀ r ∈ commandTable, r.selects w = false) ↔ ∃ e, decode (wordBytes w) = .error e := by
  have hnone : (∀ r ∈ commandTable, r.selects w = false) ↔ ¬∃ i, decode (wordBytes w) = .ok i := by
    rw [← exists_selects_iff_decode_ok]
    simp
  rw [hnone]
  cases decode (wordBytes w) <;> simp

/-- What makes a word illegal, in the terms of R61: its OP is no row's, or a bit that must be 0 is set. -/
theorem no_row_selects_iff_illegal (w : Word) :
    (∀ r ∈ commandTable, r.selects w = false) ↔
      ((∀ r ∈ commandTable, fieldOp r.pattern ≠ fieldOp w) ∨
        ∃ r ∈ commandTable, fieldOp r.pattern = fieldOp w ∧ w &&& (r.mask &&& 0x00FFFFFF) ≠ 0) := by
  constructor
  · intro hnone
    by_cases hop : ∃ r ∈ commandTable, fieldOp r.pattern = fieldOp w
    · obtain ⟨r, hr, hop⟩ := hop
      refine .inr ⟨r, hr, hop, fun hbits => ?_⟩
      exact Bool.false_ne_true ((hnone r hr).symm.trans ((selects_iff hr).2 ⟨hop, hbits⟩))
    · exact .inl fun r hr h => hop ⟨r, hr, h⟩
  · intro hillegal r hr
    refine Bool.eq_false_iff.2 fun hsel => ?_
    obtain ⟨hop, hbits⟩ := (selects_iff hr).1 hsel
    rcases hillegal with hunassigned | ⟨r', hr', hop', hbits'⟩
    · exact hunassigned r hr hop
    · obtain rfl : r = r' := eq_of_fieldOp_pattern r hr r' hr' (hop.trans hop'.symm)
      exact hbits' hbits

/-! ### The obligations of the encoding -/

/-- Settles O2: the decoder undoes the encoder, instruction by instruction. -/
theorem decodeOfEncode : Obligations.DecodeOfEncode := fun _ hwf => Machine.decode_encode hwf

/-- Settles O3: the encoder undoes the decoder, opcode by opcode. -/
theorem encodeOfDecode : Obligations.EncodeOfDecode := fun _ _ hdec => encode_of_decode hdec

/-- Settles O4: a selected word encodes an instruction of its row, and the decoder undoes the encoder. -/
theorem rowSelectsInstruction : Obligations.RowSelectsInstruction := by
  refine fun w => ⟨fun r hr hsel => ?_, fun r₁ hr₁ r₂ hr₂ h₁ h₂ => eq_of_selects hr₁ hr₂ h₁ h₂⟩
  obtain ⟨i, hwf, hmnemonic, henc⟩ := exists_encode_of_selects hr hsel
  exact ⟨i, henc ▸ Machine.decode_encode hwf, hmnemonic, henc⟩

/-- Settles O1, by running the decoder on each of the words. -/
theorem sampleWordsDecode : Obligations.SampleWordsDecode := by
  unfold Obligations.SampleWordsDecode
  decide

end Sys2Proof
end

section
/-! What the sequencer does with a word that is no command, and with an SPI command byte on its own. -/

namespace Sys2Proof.Machine

variable {s : State}

/-! ### An illegal word -/

/-- A command word that does not decode is FAULT_ILLEGAL (60_exceptions.md R135). -/
theorem State.runSequencer_of_decode_error {k : Nat} {e : DecodeError} (hupc : s.upc = .step k)
    (hdec : decode (wordBytes s.cmdl) = .error e) : s.runSequencer = .next (s.commandFault .illegal) := by
  have hfetch : s.fetch = .error e := by rw [State.fetch, State.fetchBytes, hupc]; exact hdec
  have hrejected : s.rejected = s.commandFault .illegal := by rw [State.rejected, hupc]
  rw [State.runSequencer, hfetch, ← hrejected]

/-- Settles O5, from what makes a word illegal and what the sequencer does with one. -/
theorem illegalWordFaults : Obligations.IllegalWordFaults := by
  refine ⟨fun s k hturn hupc hnone => ?fault, no_row_selects_iff_illegal, ?zero, no_row_selects_iff_decode_error⟩
  case fault =>
    obtain ⟨e, hdec⟩ := (no_row_selects_iff_decode_error s.cmdl).1 hnone
    rw [step_of_sequencerTurn hturn, State.runSequencer_of_decode_error hupc hdec]
    rfl
  case zero => decide

/-! ### A lone SPI command byte -/

/-- A byte sent on its own with nothing landing in it: one exchange, the answer kept in LAST_STATUS
(42_register_access.md R81; log 13). -/
theorem State.sendCommandByte_quiet (hq : s.quiet = true) (b : Byte) : ∃ st : Byte, s.sendCommandByte b = { s with
    lastStatus := st, busy := false, upc := .idle, history := .xfer b :: s.history
    answers := st :: s.answers, draws := s.draws + 1 } := by
  refine ⟨s.start.miso b, ?_⟩
  rw [State.sendCommandByte, State.commandByte_calm (State.calm_start hq)]
  rfl

/-- The bytes of the two SPI commands with a register number (30_encoding.md R68). -/
theorem cmdRegister_ofNat : ∀ r < 32,
    Config.cmdReadRegister (register (BitVec.ofNat 8 r)) = BitVec.ofNat 8 r ∧
      Config.cmdWriteRegister (register (BitVec.ofNat 8 r)) = BitVec.ofNat 8 (32 + r) := by decide

/-- Settles O60: each of the five commands is the exchange of its own byte. -/
theorem spiByteResult : Obligations.SpiByteResult := by
  intro s hq p hp
  obtain ⟨st, hst⟩ := State.sendCommandByte_quiet hq p.2
  have hexec : exec p.1 s = .next (s.sendCommandByte p.2) := by
    simp only [List.mem_append, List.mem_cons, List.not_mem_nil, or_false, List.mem_flatMap, List.mem_range] at hp
    rcases hp with (rfl | rfl | rfl) | ⟨r, hr, rfl | rfl⟩
    case inl.inl | inl.inr.inl | inl.inr.inr => rfl
    · exact congrArg (fun b => Host.Outcome.next (s.sendCommandByte b)) (cmdRegister_ofNat r hr).1
    · exact congrArg (fun b => Host.Outcome.next (s.sendCommandByte b)) (cmdRegister_ofNat r hr).2
  exact ⟨st, hexec.trans (congrArg _ hst)⟩

end Sys2Proof.Machine
end

section
/-! What the transport commands (41_transport.md) leave, as whole states: each is its primitive, the assignment to RESP
and the end of the command. -/

namespace Sys2Proof.Machine

variable {s u : State}

/-- A command past its checks whose body ends with its assignment to RESP: from the state `u` before that assignment,
the response and the end of the command are all that follows. -/
theorem State.command_responds {check : Option FaultCode} {f : State → State} (v : State → Word) (hcheck : check = none)
    (hf : f s.start = u) (hbusy : u.busy = true) :
    (s.command check fun s => (f s).respond v) = .next { u with resp := v u, busy := false, upc := .idle } := by
  rw [hcheck, State.command, hf, State.respond, State.assign_busy hbusy, State.finish]
  exact congrArg _ (State.assign_busy hbusy)

/-- R75's check passes once the block is initialised. -/
theorem State.transportCheck_of_init (hinit : s.init = true) : s.transportCheck = none := if_pos hinit

/-- Settles O38: the exchange keeps its answer in `tmp`, which RESP takes. -/
theorem xferResult : Obligations.XferResult := fun c s hq hinit =>
  ⟨s.start.miso c, State.command_responds (fun s => zext s.tmp) (State.transportCheck_of_init hinit)
    (State.getTmp_calm (State.calm_start hq) c) rfl⟩

/-- Settles O39: the line takes the operand's bit 0, CSN by an edge with its settle wait and CE by a level alone. -/
theorem csnAndCeResult : Obligations.CsnAndCeResult := by
  intro a s hq hinit
  have hcalm : s.start.calm := State.calm_start hq
  have hcheck : s.transportCheck = none := State.transportCheck_of_init hinit
  constructor
  case left => exact State.command_responds (fun _ => 0) hcheck (State.select_calm hcalm (level a)) rfl
  case right => exact State.command_responds (fun _ => 0) hcheck (State.enable_calm hcalm (level a)) rfl

end Sys2Proof.Machine
end

section
/-! What the register access commands (42_register_access.md) leave, as whole states: each is one scope, the assignment
to RESP and the end of the command. -/

namespace Sys2Proof.Machine

variable {s : State}

/-! ### The DBUF bytes and the lengths of a scope -/

@[simp] theorem State.length_dbufBytes (s : State) (i n : Nat) : (s.dbufBytes i n).length = n := by
  rw [State.dbufBytes, List.length_map, List.length_range]

/-- A valid byte is sent as what a read of it gives. -/
theorem State.dbufBytes_getElem? {n k : Nat} {v : Byte} (hk : k < n) (hv : s.dbuf.read k = some v) :
    (s.dbufBytes 0 n)[k]? = some v := by
  rw [State.dbufBytes, List.getElem?_map, List.getElem?_range hk, Option.map_some, State.dbufByte, Nat.zero_add, hv,
    Option.getD_some]

/-- The payload size bounds the data, there being no dynamic payloads (42_register_access.md R86, R87). -/
theorem State.dataLength_eq (s : State) (n : Nat) : s.dataLength n = min n s.payloadSize.toNat := rfl

/-- The padding is what the payload size leaves of it (42_register_access.md R86, R87). -/
theorem State.blankLength_eq (s : State) (n : Nat) : s.blankLength n = s.payloadSize.toNat - n := by
  change s.payloadSize.toNat - s.dataLength n = _
  rw [State.dataLength_eq, min_comm, tsub_min]

/-- Data and padding fill the payload (42_register_access.md R86, R87). -/
theorem State.dataLength_add_blankLength (s : State) (n : Nat) :
    s.dataLength n + s.blankLength n = s.payloadSize.toNat :=
  Nat.add_sub_of_le (Nat.min_le_right n _)

/-- The command byte of a register read is the register number (30_encoding.md R68). -/
theorem cmdReadRegister_eq (reg : Byte) : Config.cmdReadRegister reg = reg := BitVec.zero_or

/-! ### A composite command of one scope -/

/-- R80's checks pass once the block is initialised, no scope is open and the consumed bytes are valid. -/
theorem State.compositeCheck_of_valid {n : Nat} (hinit : s.init = true) (hcsn : s.csn = true)
    (hvalid : s.dbuf.validTo n = true) : s.compositeCheck n = none := by
  rw [State.compositeCheck, hinit, hcsn, State.dataCheck, if_pos hvalid]
  rfl

/-- A composite command of one scope `bytes`, answered by the status `st` (42_register_access.md R81) and then `n` bytes
`ds`: past its checks it leaves the line deasserted as it found it, and beside RESP and the bus it changes only what it
keeps of the answers. -/
theorem State.composite_scope {consumed n : Nat} {f : State → State} {v : State → Word} {resp : Word}
    {bytes ds : List Byte} {st x : Byte} {m : Memory} {p : SeqPos} (hinit : s.init = true) (hcsn : s.csn = true)
    (hvalid : s.dbuf.validTo consumed = true) (hlen : ds.length = n)
    (hscope : f s.start = { s.start with csn := true, lastStatus := st, tmp := x, dbuf := m }.afterBus
      (scopeEvents bytes) (st :: ds) s.time p)
    (hresp : ∀ u : State, u.lastStatus = st → u.tmp = x → v u = resp) :
    (s.command (s.compositeCheck consumed) fun s => (f s).respond v) = .next { s with
      lastStatus := st, tmp := x, dbuf := m, resp := resp, busy := false, upc := .idle
      history := (scopeEvents bytes).reverse ++ s.history
      answers := ds.reverse ++ st :: s.answers
      draws := s.draws + (1 + n) } := by
  rw [State.command_responds v (State.compositeCheck_of_valid hinit hcsn hvalid) hscope rfl, hresp _ rfl rfl]
  simp [State.afterBus, hcsn, hlen, Nat.add_comm]

/-- The response of the commands that end with their device status byte (42_register_access.md R81). -/
theorem zext_lastStatus_eq {st x : Byte} (u : State) (hst : u.lastStatus = st) (_ : u.tmp = x) :
    zext u.lastStatus = zext st := congrArg zext hst

/-! ### The commands -/

/-- Settles O40: the scope of `State.writeReg` on the bytes of DBUF. -/
theorem wregResult : Obligations.WregResult := by
  refine ⟨fun s n k v hk hv => ⟨s.length_dbufBytes 0 n, State.dbufBytes_getElem? hk hv⟩, ?_⟩
  intro a b s hq hinit hcsn hvalid
  obtain ⟨st, ds, p, hlen, hscope⟩ :=
    State.writeReg_calm (State.calm_start hq) (register a) (s.dbufBytes 0 (lengthOf b))
  rw [State.length_dbufBytes] at hlen
  exact ⟨st, ds, hlen, State.composite_scope hinit hcsn hvalid hlen hscope zext_lastStatus_eq⟩

/-- Settles O41: the scope of `State.readReg1`, whose data byte RESP takes. -/
theorem rregResult : Obligations.RregResult := by
  intro a s hq hinit hcsn
  obtain ⟨st, v, p, hscope⟩ := State.readReg1_calm (State.calm_start hq) (register a)
  refine ⟨st, v, ?_⟩
  rw [← cmdReadRegister_eq (a &&& 0x1F)]
  exact State.composite_scope (ds := [v]) hinit hcsn rfl rfl hscope fun _ _ htmp => congrArg zext htmp

/-- Settles O42: the scope of RREGB, whose answers DBUF takes from byte 0 on. -/
theorem rregbResult : Obligations.RregbResult := by
  refine ⟨fun m ds k => by simp [Memory.read_writeAll], ?_⟩
  intro a b s hq hinit hcsn
  obtain ⟨st, ds, p, hlen, hscope⟩ := State.readRegs_calm (State.calm_start hq) (register a) (lengthOf b)
  refine ⟨st, ds, hlen, ?_⟩
  rw [← cmdReadRegister_eq (a &&& 0x1F)]
  exact State.composite_scope hinit hcsn rfl hlen hscope zext_lastStatus_eq

/-- Settles O43: the scope of the payload write, which the size PAYLOAD_SIZE fixes. -/
theorem wpayResult : Obligations.WpayResult := by
  intro b c s hq hinit hcsn hvalid
  obtain ⟨st, ds, p, hlen, hscope⟩ := State.writePayload_calm (State.calm_start hq) c (lengthOf b)
  rw [State.dataLength_add_blankLength] at hlen
  refine ⟨st, ds, hlen, ?_⟩
  rw [State.blankLength_eq] at hscope
  exact State.composite_scope hinit hcsn hvalid hlen hscope zext_lastStatus_eq

/-- Settles O44: the scope of the payload read, whose answers are split where the data ends. -/
theorem rpayResult : Obligations.RpayResult := by
  intro b s hq hinit hcsn
  obtain ⟨st, ds, drained, p, hdata, hblank, hscope⟩ := State.readPayload_calm (State.calm_start hq) (lengthOf b)
  have hall : s.start.dataLength (lengthOf b) + s.start.blankLength (lengthOf b) = s.payloadSize.toNat :=
    State.dataLength_add_blankLength s.start (lengthOf b)
  have hlen : ds.length + drained.length = s.payloadSize.toNat := by rw [hdata, hblank, hall]
  rw [hall] at hscope
  exact ⟨st, ds, drained, hdata, hlen,
    State.composite_scope hinit hcsn rfl (List.length_append.trans hlen) hscope zext_lastStatus_eq⟩

/-- Settles O45: the scope of the flush. -/
theorem flushtxResult : Obligations.FlushtxResult := by
  intro s hq hinit hcsn
  obtain ⟨st, p, hscope⟩ := State.flushTx_calm (State.calm_start hq)
  exact ⟨st, State.composite_scope (ds := []) hinit hcsn rfl rfl hscope zext_lastStatus_eq⟩

end Sys2Proof.Machine
end

section
/-! The mode table (43_transceiver_control.md R89). -/

namespace Sys2Proof.Machine

theorem State.HostTouched.mode {s t : State} (h : s.HostTouched t) : t.mode = s.mode := by rw [h.frame]

theorem State.hostAccess_mode (s : State) (a : HostAccess) : (s.hostAccess a).mode = s.mode := by
  rcases s.hostAccess_cases a with ⟨w, -, heq⟩ | htouched
  · rw [heq]; rfl
  · exact htouched.mode

/-- A sound block is uninitialised exactly in PoweredDown. -/
theorem State.init_eq_false_iff {s : State} (hsound : s.sound = true) : s.init = false ↔ s.mode = .poweredDown := by
  obtain ⟨-, -, hinit, -⟩ := s.sound_iff.1 hsound
  rw [hinit, bne_eq_false_iff_eq]

/-- A command that R89's table takes elsewhere than to Standby makes the checks of the composite commands. -/
theorem isComposite_of_modeAfter {i : Instr} (hmoves : modeAfter .standby i ≠ .standby) : i.isComposite = true := by
  rcases modeAfter_cases i with ⟨-, hkeeps⟩ | ⟨hbegin | hcomposite, -⟩
  · exact absurd (hkeeps .standby) hmoves
  · rw [eq_of_beq hbegin] at hmoves
    exact absurd rfl hmoves
  · exact hcomposite

/-- Settles O19: the fault action keeps MODE and a completed command leaves the table's; from PoweredDown the INIT check
comes first. -/
theorem modeMachine : Obligations.ModeMachine := by
  refine ⟨?writers, fun s a => ⟨rfl, s.hostAccess_mode a⟩, fun s => s.init_eq_false_iff, ?poweredDown⟩
  case writers =>
    intro i s t hno hexec
    rcases exec_cases_of_noReset hno hexec with ⟨c, hfault, rfl⟩ | ⟨hpass, hcompletes⟩
    · rw [hfault, if_neg (Option.some_ne_none c), State.commandFault_mode]
    · rw [if_pos hpass, hcompletes.mode]
  case poweredDown =>
    intro i s hsound hmode hmoves
    have hbus : (i.isTransport || i.isComposite) = true := by rw [isComposite_of_modeAfter hmoves, Bool.or_true]
    exact State.firstFault_of_not_init ((State.init_eq_false_iff hsound).2 hmode) hbus

end Sys2Proof.Machine
end

section
/-! What the transceiver control commands (43_transceiver_control.md) leave, as whole states: each is a row of register
scopes, the assignments to the shadows and to RESP, and the end of the command. -/

namespace Sys2Proof.Machine

variable {s : State}

/-! ### The command bytes and the operands -/

/-- W_REGISTER of RX_ADDR_P(p) (30_encoding.md R68, R70). -/
theorem cmdWriteRegister_regRxAddr : ∀ p < 6,
    Config.cmdWriteRegister (Config.regRxAddr p) = 0x2A + BitVec.ofNat 8 p := by decide

/-- W_REGISTER of RX_PW_P(p) (30_encoding.md R68, R70). -/
theorem cmdWriteRegister_regRxPw : ∀ p < 6,
    Config.cmdWriteRegister (Config.regRxPw p) = 0x31 + BitVec.ofNat 8 p := by decide

theorem payloadSizeEvents_eq (size : Nat) : payloadSizeEvents size =
    (List.range 6).flatMap fun p => scopeEvents [0x31 + BitVec.ofNat 8 p, BitVec.ofNat 8 size] :=
  List.flatMap_congr fun p hp => by
    rw [← cmdWriteRegister_regRxPw p (List.mem_range.1 hp)]
    rfl

/-- PRIM_RX set in the CONFIG value drawn (43_transceiver_control.md R95, R99). -/
theorem rmwEvents_setPrimRx (v : Byte) :
    rmwEvents v Config.configPrimRx 0x00 = scopeEvents [0x00, 0xFF] ++ scopeEvents [0x20, v ||| 0x01] := by
  have hset : (v ||| 0x01) &&& ~~~0x00 = v ||| 0x01 := BitVec.and_allOnes
  exact congrArg (fun w => scopeEvents [0x00, 0xFF] ++ scopeEvents [0x20, w]) hset

/-- PRIM_RX cleared in the CONFIG value drawn (43_transceiver_control.md R96, R99). -/
theorem stopListeningEvents_eq (v : Byte) : stopListeningEvents v =
    [Event.ce false] ++ scopeEvents [0x00, 0xFF] ++ scopeEvents [0x20, v &&& 0xFE] ++ [Event.wait 130] := by
  have hclear : (v ||| 0x00) &&& ~~~0x01 = v &&& 0xFE := congrArg (· &&& 0xFE) BitVec.or_zero
  exact congrArg (fun w => [Event.ce false] ++ scopeEvents [0x00, 0xFF] ++ scopeEvents [0x20, w] ++ [Event.wait 130])
    hclear

theorem sizeOf_payloadDefault : sizeOf Config.payloadDefault = 32 := rfl

theorem writeEvents_regEnAa (v : Byte) : writeEvents Config.regEnAa v = scopeEvents [0x21, v] := rfl

theorem writeEvents_regEnRxaddr (v : Byte) : writeEvents Config.regEnRxaddr v = scopeEvents [0x22, v] := rfl

/-! ### The longer bodies -/

/-- Two registers written with the same bytes, here TX_ADDR and RX_ADDR_P0 (43_transceiver_control.md R93). -/
theorem State.writeReg_writeReg_calm (h : s.calm) (reg reg' : Byte) (bytes : List Byte) :
    ∃ s₁ ds₁ s₂ ds₂ u, ds₁.length = bytes.length ∧ ds₂.length = bytes.length ∧
      (s.writeReg reg bytes).writeReg reg' bytes =
        { s with csn := true, lastStatus := s₂ }.afterBus
          (scopeEvents (Config.cmdWriteRegister reg :: bytes) ++ scopeEvents (Config.cmdWriteRegister reg' :: bytes))
          (s₁ :: ds₁ ++ s₂ :: ds₂) s.time u := by
  obtain ⟨s₁, ds₁, u₁, hlen₁, h₁⟩ := State.writeReg_calm h reg bytes
  have c₁ : (s.writeReg reg bytes).calm := by rw [h₁]; exact State.calm_of h rfl rfl
  obtain ⟨s₂, ds₂, u₂, hlen₂, h₂⟩ := State.writeReg_calm c₁ reg' bytes
  refine ⟨s₁, ds₁, s₂, ds₂, u₂, hlen₁, hlen₂, ?_⟩
  rw [h₂, h₁]
  simp [State.afterBus]
  omega

/-- OPENR's body: the address, then EN_RXADDR read and written back with the pipe's bit (43_transceiver_control.md
R94). -/
theorem State.openPipe_calm (h : s.calm) (pipe : Nat) :
    ∃ s₁ ds s₂ e s₃ d u, ds.length = pipeAddressLength pipe ∧ s.openPipe pipe =
      { s with csn := true, lastStatus := s₃, tmp := e }.afterBus
        (scopeEvents (Config.cmdWriteRegister (Config.regRxAddr pipe) :: s.dbufBytes 0 (pipeAddressLength pipe)) ++
          readEvents Config.regEnRxaddr ++ writeEvents Config.regEnRxaddr (e ||| 1 <<< pipe))
        (s₁ :: ds ++ [s₂, e, s₃, d]) s.time u := by
  obtain ⟨s₁, ds, u₁, hlen, h₁⟩ :=
    State.writeReg_calm h (Config.regRxAddr pipe) (s.dbufBytes 0 (pipeAddressLength pipe))
  have c₁ : (s.writeReg (Config.regRxAddr pipe) (s.dbufBytes 0 (pipeAddressLength pipe))).calm := by
    rw [h₁]; exact State.calm_of h rfl rfl
  obtain ⟨s₂, e, u₂, h₂⟩ := State.readReg1_calm c₁ Config.regEnRxaddr
  generalize hread : State.readReg1 Config.regEnRxaddr _ = q at h₂
  have c₂ : q.calm := by rw [h₂]; exact State.calm_of c₁ rfl rfl
  have htmp : q.tmp = e := by rw [h₂]; rfl
  obtain ⟨s₃, d, u₃, h₃⟩ := State.writeReg1_calm c₂ Config.regEnRxaddr (e ||| 1 <<< pipe)
  refine ⟨s₁, ds, s₂, e, s₃, d, u₃, by rw [hlen, State.length_dbufBytes], ?_⟩
  simp only [State.openPipe, hread, htmp]
  rw [h₃, h₂, h₁]
  simp [State.afterBus]
  omega

/-- STARTL's body before its response (43_transceiver_control.md R95), as `State.stopListening` is STOPL's. -/
def State.startListening (s : State) : State :=
  (((s.configRmw Config.configPrimRx 0x00).enable true).wait Config.tModeUs).setMode .listening

theorem exec_startl (s : State) :
    exec .startl s = s.command (s.compositeCheck 0) fun s => s.startListening.respond fun _ => 0 := rfl

/-- PRIM_RX set in the CONFIG value drawn, CE high, the settle wait, MODE Listening (43_transceiver_control.md R95). -/
theorem State.startListening_calm (h : s.calm) :
    ∃ s₁ v s₂ d u, s.startListening =
      { s with csn := true, ce := true, mode := .listening, lastStatus := s₂, tmp := v }.afterBus
        (scopeEvents [0x00, 0xFF] ++ scopeEvents [0x20, v ||| 0x01] ++ [Event.ce true, .wait 130]) [s₁, v, s₂, d]
        s.time u := by
  obtain ⟨s₁, v, s₂, d, u, h₁⟩ := State.configRmw_calm h Config.configPrimRx 0x00
  have c₁ : (s.configRmw Config.configPrimRx 0x00).calm := by rw [h₁]; exact State.calm_of h rfl rfl
  have h₂ := State.enable_calm c₁ true
  have c₂ : ((s.configRmw Config.configPrimRx 0x00).enable true).calm := by rw [h₂]; exact State.calm_of c₁ rfl rfl
  have h₃ := State.wait_calm c₂ Config.tModeUs
  have c₃ : (((s.configRmw Config.configPrimRx 0x00).enable true).wait Config.tModeUs).calm := by
    rw [h₃]; exact State.calm_of c₂ rfl rfl
  refine ⟨s₁, v, s₂, d, u.next.next, ?_⟩
  rw [State.startListening, State.setMode, State.assign_calm c₃, h₃, h₂, h₁, rmwEvents_setPrimRx]
  simp [State.afterBus, Config.tModeUs]

/-- BEGIN's body before its last assignments: the power-up, the payload size, EN_AA and EN_RXADDR
(43_transceiver_control.md R90). -/
theorem State.begin_calm (h : s.calm) :
    ∃ (ans : List Byte) (st d : Byte) (u : SeqPos), ans.length = 16 ∧
      ((s.beginPowerUp.setPayloadSize Config.payloadDefault).writeReg1 Config.regEnAa 0x01).writeReg1
          Config.regEnRxaddr 0x01 =
        { s with pinsDriven := true, ce := false, csn := true, lastStatus := st, payloadSize := 32 }.afterBus
          (powerUpEvents ++ payloadSizeEvents 32 ++ scopeEvents [0x21, 0x01] ++ scopeEvents [0x22, 0x01])
          (ans ++ [st, d]) (s.time + Config.tPwrupUs / 1000) u := by
  obtain ⟨s₁, d₁, u₁, h₁⟩ := State.beginPowerUp_calm h
  have c₁ : s.beginPowerUp.calm := by rw [h₁]; exact State.calm_of h rfl rfl
  obtain ⟨sizes, s₂, d₂, u₂, hlen, h₂⟩ := State.setPayloadSize_calm c₁ (by rw [h₁]; rfl) Config.payloadDefault
  generalize s.beginPowerUp.setPayloadSize Config.payloadDefault = q at h₂ ⊢
  have c₂ : q.calm := by rw [h₂]; exact State.calm_of c₁ rfl rfl
  obtain ⟨s₃, d₃, u₃, h₃⟩ := State.writeReg1_calm c₂ Config.regEnAa 0x01
  have c₃ : (q.writeReg1 Config.regEnAa 0x01).calm := by rw [h₃]; exact State.calm_of c₂ rfl rfl
  obtain ⟨s₄, d₄, u₄, h₄⟩ := State.writeReg1_calm c₃ Config.regEnRxaddr 0x01
  refine ⟨[s₁, d₁] ++ sizes ++ [s₂, d₂, s₃, d₃], s₄, d₄, u₄, by simp [hlen], ?_⟩
  rw [h₄, h₃, h₂, h₁, sizeOf_payloadDefault, writeEvents_regEnAa, writeEvents_regEnRxaddr]
  simp [State.afterBus]
  omega

/-! ### A composite command of several scopes -/

/-- A composite command that keeps DBUF and the clock: past its checks it leaves chip-select deasserted as it found
it, what its body leaves of CE, MODE, PAYLOAD_SIZE, LAST_STATUS and the scratch, and its response. -/
theorem State.composite_control {i : Instr} {consumed : Nat} {f : State → State} {v : State → Word} {resp : Word}
    {csn ce : Bool} {mode : Mode} {size : BitVec 6} {st x : Byte} {evs : List Event} {ans : List Byte} {p : SeqPos}
    (hexec : exec i s = s.command (s.compositeCheck consumed) fun s => (f s).respond v)
    (hinit : s.init = true) (hcsn : s.csn = true) (hvalid : s.dbuf.validTo consumed = true)
    (hbody : f s.start = { s.start with
      csn := csn, ce := ce, mode := mode, payloadSize := size, lastStatus := st, tmp := x }.afterBus evs ans s.time p)
    (hline : csn = s.csn) (hresp : ∀ u : State, u.payloadSize = size → v u = resp) :
    exec i s = .next { s with
      ce := ce, mode := mode, payloadSize := size, lastStatus := st, tmp := x, resp := resp, busy := false
      upc := .idle, history := evs.reverse ++ s.history, answers := ans.reverse ++ s.answers
      draws := s.draws + ans.length } := by
  subst hline
  rw [hexec, State.command_responds v (State.compositeCheck_of_valid hinit hcsn hvalid) hbody rfl, hresp _ rfl]
  rfl

/-! ### The commands -/

/-- Settles O46: BEGIN makes no check, and its last assignments follow its writes. -/
theorem beginResult : Obligations.BeginResult := by
  intro s hq
  obtain ⟨ans, st, d, u, hlen, hbody⟩ := State.begin_calm (State.calm_start hq)
  have hall : (ans ++ [st, d]).length = 18 := by rw [List.length_append, hlen]; rfl
  rw [payloadSizeEvents_eq] at hbody
  refine ⟨ans ++ [st, d], st, hall, by simp [hlen], ?_⟩
  simp only [exec, execBegin, State.command]
  rw [hbody, State.assign_busy rfl, State.finish, State.assign_busy rfl, ← hall]
  rfl

/-- Settles O47: the scope of one register write. -/
theorem setchResult : Obligations.SetchResult := by
  intro c s hq hinit hcsn
  obtain ⟨st, d, u, hbody⟩ := State.writeReg1_calm (State.calm_start hq) Config.regRfCh (channelOf c)
  have hresp : zext (channelOf c) = BitVec.ofNat 32 (min c.toNat 125) :=
    BitVec.setWidth_ofNat_of_le_of_lt (by decide) (by omega)
  exact ⟨st, d, State.composite_control rfl hinit hcsn (Memory.validTo_zero _) hbody hcsn.symm fun _ _ => hresp⟩

/-- Settles O48: the six scopes of `State.setPayloadSize`, whose size RESP takes from the shadow. -/
theorem setpsResult : Obligations.SetpsResult := by
  intro c s hq hinit hcsn
  obtain ⟨ans, st, d, u, hlen, hbody⟩ := State.setPayloadSize_calm (State.calm_start hq) hcsn c.toNat
  have hall : (ans ++ [st, d]).length = 12 := by rw [List.length_append, hlen]; rfl
  have hresp : (BitVec.ofNat 6 (sizeOf c.toNat)).setWidth 32 = BitVec.ofNat 32 (sizeOf c.toNat) :=
    BitVec.setWidth_ofNat_of_le_of_lt (by decide) (by have := (sizeOf_bounds c.toNat).2; omega)
  rw [payloadSizeEvents_eq] at hbody
  refine ⟨ans ++ [st, d], st, hall, by simp [hlen], ?_⟩
  rw [← hall]
  exact State.composite_control (i := .setps c) rfl hinit hcsn (Memory.validTo_zero _) hbody rfl fun _ hsize =>
    (congrArg (BitVec.setWidth 32) hsize).trans hresp

/-- Settles O49: two scopes of the same five bytes. -/
theorem openwResult : Obligations.OpenwResult := by
  intro s hq hinit hcsn hvalid
  obtain ⟨s₁, ds₁, s₂, ds₂, u, hlen₁, hlen₂, hbody⟩ := State.writeReg_writeReg_calm (State.calm_start hq)
    Config.regTxAddr (Config.regRxAddr 0) (s.start.dbufBytes 0 Config.addrWidth)
  rw [State.length_dbufBytes] at hlen₁ hlen₂
  have hall : (s₁ :: ds₁ ++ s₂ :: ds₂).length = 12 := by simp [hlen₁, hlen₂, Config.addrWidth]
  have hexec : exec .openw s = s.command (s.compositeCheck 5) fun s =>
      ((s.writeReg Config.regTxAddr (s.dbufBytes 0 Config.addrWidth)).writeReg (Config.regRxAddr 0)
        (s.dbufBytes 0 Config.addrWidth)).respond fun _ => 0 := rfl
  refine ⟨s₁ :: ds₁ ++ s₂ :: ds₂, s₂, hall, by simp [hlen₁, Config.addrWidth], ?_⟩
  rw [← hall]
  exact State.composite_control hexec hinit hcsn hvalid hbody hcsn.symm fun _ _ => rfl

/-- Settles O50: the three scopes of `State.openPipe` for a pipe of the device, the response alone for no pipe. -/
theorem openrResult : Obligations.OpenrResult := by
  refine ⟨?pipe, ?ignored⟩
  case pipe =>
    intro a s hq hinit hcsn hpipe hvalid
    obtain ⟨s₁, ds, s₂, e, s₃, d, u, hlen, hbody⟩ := State.openPipe_calm (State.calm_start hq) a.toNat
    rw [cmdWriteRegister_regRxAddr _ (Nat.lt_succ_of_le hpipe), BitVec.ofNat_toNat, BitVec.setWidth_eq] at hbody
    have hexec : exec (.openr a) s = s.command (s.compositeCheck (pipeAddressLength a.toNat))
        fun s => (s.openPipe a.toNat).respond fun _ => 1 := if_neg (Nat.not_le.2 (Nat.lt_succ_of_le hpipe))
    refine ⟨s₁ :: ds ++ [s₂, e, s₃, d], e, s₃, ?length, ?drawn, ?status,
      State.composite_control hexec hinit hcsn hvalid hbody hcsn.symm fun _ _ => rfl⟩
    case length | drawn | status =>
      by_cases hlong : a.toNat ≤ 1 <;> simp [hlen, pipeAddressLength, hlong, Config.addrWidth]
  case ignored =>
    intro a s hinit hcsn hpipe
    have hexec : exec (.openr a) s = s.command (s.compositeCheck 0) fun s => s.respond fun _ => 0 := if_pos hpipe
    rw [hexec]
    exact State.command_responds (f := id) (u := s.start) _ (State.compositeCheck_of_valid hinit hcsn rfl) rfl rfl

/-- Settles O51: the read-modify-write of CONFIG, after the CE edge in STOPL and before it in STARTL. -/
theorem startlAndStoplResult : Obligations.StartlAndStoplResult := by
  intro s hq hinit hcsn
  have hvalid : s.dbuf.validTo 0 = true := Memory.validTo_zero _
  constructor
  case left =>
    obtain ⟨s₁, v, s₂, d, u, hbody⟩ := State.startListening_calm (State.calm_start hq)
    exact ⟨s₁, v, s₂, d, State.composite_control (exec_startl s) hinit hcsn hvalid hbody hcsn.symm fun _ _ => rfl⟩
  case right =>
    obtain ⟨s₁, v, s₂, d, u, hbody⟩ := State.stopListening_calm (State.calm_start hq)
    have hexec : exec .stopl s = s.command (s.compositeCheck 0) fun s => s.stopListening.respond fun _ => 0 := rfl
    rw [stopListeningEvents_eq] at hbody
    exact ⟨s₁, v, s₂, d, State.composite_control hexec hinit hcsn hvalid hbody hcsn.symm fun _ _ => rfl⟩

end Sys2Proof.Machine
end

section
/-! The packet framer (44_packet_framer.md): the axis map and the deadzone, the wire packet, and FRAME. -/

namespace Sys2Proof.Config

/-! ### AXIS_MAP (R105) -/

/-- The test of neighbouring samples that `axisLawful` makes settles every pair of samples. -/
theorem monotoneOn_or_antitoneOn_of_axisLawful {f : BitVec 10 → Byte} (hlawful : axisLawful f = true) :
    MonotoneOn (fun n => (f (BitVec.ofNat 10 n)).toInt) (Set.Iic 1023) ∨
      AntitoneOn (fun n => (f (BitVec.ofNat 10 n)).toInt) (Set.Iic 1023) := by
  simp only [axisLawful, Bool.or_eq_true, List.all_eq_true, List.mem_range, decide_eq_true_eq] at hlawful
  rcases hlawful with hrising | hfalling
  · exact .inl (monotoneOn_of_le_add_one Set.ordConnected_Iic fun n _ _ hn => hrising n (Nat.lt_of_succ_le hn))
  · exact .inr (antitoneOn_of_add_one_le Set.ordConnected_Iic fun n _ _ hn => hfalling n (Nat.lt_of_succ_le hn))

theorem toNat_mem_samples (a : BitVec 10) : a.toNat ∈ Set.Iic 1023 := Nat.le_of_lt_succ a.isLt

theorem axisMap_of_lawful (hlawful : axisLawful axisRaw = true) (a : BitVec 10) :
    axisMap a = (axisRaw (BitVec.ofNat 10 a.toNat)).toInt := by
  rw [axisMap, if_pos hlawful, BitVec.ofNat_toNat, BitVec.setWidth_eq]

theorem axisMap_of_not_lawful (hlawful : ¬ axisLawful axisRaw = true) (a : BitVec 10) : axisMap a = 0 := if_neg hlawful

theorem axisMap_range (a : BitVec 10) : -128 ≤ axisMap a ∧ axisMap a ≤ 127 := by
  unfold axisMap
  split
  · exact ⟨BitVec.le_toInt _, Int.le_of_lt_add_one BitVec.toInt_lt⟩
  · decide

theorem axisMap_rising_or_falling : (∀ a a' : BitVec 10, a.toNat ≤ a'.toNat → axisMap a ≤ axisMap a') ∨
    ∀ a a' : BitVec 10, a.toNat ≤ a'.toNat → axisMap a' ≤ axisMap a := by
  by_cases hlawful : axisLawful axisRaw = true
  · simp only [axisMap_of_lawful hlawful]
    exact (monotoneOn_or_antitoneOn_of_axisLawful hlawful).imp
      (fun h a a' hle => h (toNat_mem_samples a) (toNat_mem_samples a') hle)
      (fun h a a' hle => h (toNat_mem_samples a) (toNat_mem_samples a') hle)
  · exact .inl fun a a' _ => by rw [axisMap_of_not_lawful hlawful, axisMap_of_not_lawful hlawful]

/-! ### DEADZONE (R103) -/

theorem deadzone_le : deadzone ≤ 128 := Nat.le_of_lt_succ (Nat.mod_lt _ (by decide))

end Sys2Proof.Config

namespace Sys2Proof.Machine

/-- Settles O34: the range is a byte's, and the order comes from `axisLawful`'s test of neighbours. -/
theorem axisMapObligations : Obligations.AxisMapObligations :=
  ⟨Config.axisMap_range, Config.axisMap_rising_or_falling⟩

/-! ### The deadzone (R103) -/

/-- Settles O33: nearer to 0 than `DEADZONE` means strictly between its negative and itself. -/
theorem deadzoneForcesZero : Obligations.DeadzoneForcesZero := by
  refine ⟨Config.deadzone_le, fun v => ?_⟩
  have hnear : v.natAbs < Config.deadzone ↔ -(Config.deadzone : Int) < v ∧ v < Config.deadzone := by omega
  exact if_congr hnear rfl rfl

/-! ### The wire packet (R101, R102) -/

@[simp] theorem trunc8_toInt (b : Byte) : trunc8 b.toInt = b := BitVec.ofInt_toInt

/-- Truncation keeps the value of an `i8`. -/
theorem toInt_trunc8 {n : Int} (hlow : -128 ≤ n) (hhigh : n ≤ 127) : (trunc8 n).toInt = n :=
  BitVec.toInt_ofInt_eq_self (by decide) hlow (Int.lt_add_one_of_le hhigh)

/-- Settles O31, field by field: a byte and the `i8` it stands for. -/
theorem packetRoundTrip : Obligations.PacketRoundTrip := by
  refine ⟨fun x y sw trigger hx hx' hy hy' hsw hsw' ht ht' => ⟨_, _, _, _, rfl, ?decoded⟩, fun b0 b1 b2 b3 => ?encoded⟩
  case decoded =>
    rw [Packet.decode, toInt_trunc8 hx hx', toInt_trunc8 hy hy', toInt_trunc8 hsw hsw', toInt_trunc8 ht ht']
  case encoded => simp only [Packet.encode, Packet.decode, trunc8_toInt]

/-! ### FRAME (R106) -/

/-- The inverted pin as a byte (R104). -/
theorem trunc8_invert (pin : Bool) : trunc8 (invert pin) = if pin then 0 else 1 := by cases pin <;> rfl

theorem framePacket_encode (ax ay : BitVec 10) (trg sw : Bool) : (framePacket ax ay trg sw).encode =
    [trunc8 (deadzone (Config.axisMap ax)), trunc8 (deadzone (Config.axisMap ay)), if sw then 0 else 1,
      if trg then 0 else 1] := by
  simp only [Packet.encode, framePacket, trunc8_invert]

theorem framePacket_toWord (ax ay : BitVec 10) (trg sw : Bool) : (framePacket ax ay trg sw).toWord =
    wordOfBytes (trunc8 (deadzone (Config.axisMap ax))) (trunc8 (deadzone (Config.axisMap ay))) (if sw then 0 else 1)
      (if trg then 0 else 1) := by
  simp only [Packet.toWord, framePacket, trunc8_invert]

/-- FRAME stores its packet and responds with the packet's word. -/
theorem exec_frame (ax ay : BitVec 10) (trg sw : Bool) (s : State) :
    exec (.frame ax ay trg sw) s = .next { s with
      dbuf := s.dbuf.writeAll 0 (framePacket ax ay trg sw).encode, resp := (framePacket ax ay trg sw).toWord
      busy := false, upc := .idle } :=
  have hstore : s.start.storePacket (framePacket ax ay trg sw) =
      { s.start with dbuf := s.dbuf.writeAll 0 (framePacket ax ay trg sw).encode } := State.assign_busy rfl
  State.command_responds (fun _ => (framePacket ax ay trg sw).toWord) rfl hstore rfl

/-- Settles O52: FRAME has no check and no step on the bus, so nothing can land in it. -/
theorem frameResult : Obligations.FrameResult := by
  intro ax ay trg sw s
  rw [exec_frame, framePacket_encode, framePacket_toWord]
  rfl

end Sys2Proof.Machine
end

section
/-! What the ack sequencer's commands (45_ack_sequencer.md) leave, as whole states: SEND with each of its three ends, the
status poll, and the payload read that clears RX_DR. -/

namespace Sys2Proof.Machine

variable {s u : State}

/-- A command past its checks is its body, from the body's last state `u`, and the end of the command. -/
theorem State.command_completes {check : Option FaultCode} {f : State → State} (hcheck : check = none)
    (hf : f s.start = u) (hbusy : u.busy = true) :
    s.command check f = .next { u with busy := false, upc := .idle } := by
  rw [hcheck, State.command, hf, State.finish]
  exact congrArg _ (State.assign_busy hbusy)

/-! ### SEND (R109 to R116) -/

/-- LAST_SEND_OK and LINK_LED tell an ack from the two other ends (45_ack_sequencer.md R113 to R115). -/
theorem SendOutcome.ok_eq (o : SendOutcome) : o.ok = (o == .ack) := by cases o <;> rfl

/-- RESP of each end: the outcome in bit 0, the cause in bits 9:8 (45_ack_sequencer.md R116). -/
theorem SendOutcome.word_eq (o : SendOutcome) :
    o.word = match o with | .ack => 0x00000001 | .nack => 0x00000100 | .timeout => 0x00000200 := by
  cases o <;> rfl

/-- What a payload write pushes, in the numbers of the spec: the data PAYLOAD_SIZE leaves room for, then zeros
(42_register_access.md R86). -/
theorem State.payloadBytes_eq (s : State) (n : Nat) : s.payloadBytes n =
    s.dbufBytes 0 (min n s.payloadSize.toNat) ++ List.replicate (s.payloadSize.toNat - n) 0x00 := by
  rw [State.payloadBytes, State.dataLength_eq, State.blankLength_eq]
  rfl

/-- SEND's body with the chip-select line deasserted: the prologue, the polls that miss, the poll that ends it. -/
theorem State.sendBody_ends (h : s.calm) (hcsn : s.csn = true) (n : Nat)
    (hvalid : s.dbuf.validTo (min n s.payloadSize.toNat) = true) :
    ∃ s₁ v pay start misses last o st tail d t p, s.time ≤ start ∧ start ≤ t ∧ s.draws ≤ d ∧
      misses.all (Poll.missed (BitVec.ofNat 32 start)) = true ∧ last.ends (BitVec.ofNat 32 start) o = true ∧
      pay.length = 3 + s.payloadSize.toNat ∧ tail.length = o.endLength ∧ tail[o.statusIndex]? = some st ∧
      s.sendBody n = { s with
        ce := false, mode := .idle, lastStatus := st, tmp := last.value, t0 := BitVec.ofNat 32 start
        lastSendOk := o == .ack, linkLed := o == .ack, resp := o.word, upc := p
        history := (sendEvents v (s.dbufBytes 0 (min n s.payloadSize.toNat) ++
          List.replicate (s.payloadSize.toNat - n) 0x00) (BitVec.ofNat 32 start) misses last o).reverse ++ s.history
        answers := (s₁ :: v :: pay ++ misses.flatMap Poll.answers ++ last.answers ++ tail).reverse ++ s.answers
        draws := d, time := t } := by
  obtain ⟨v, misses, last, o, st, start, _, s₁, pay, tail, d, t, p, rfl, hstart, ht, hmisses, hlast, hpay, htail, hst, hd,
    hbody⟩ := State.sendBody_calm h n hvalid
  rw [Nat.add_assoc, State.dataLength_add_blankLength] at hpay
  refine ⟨s₁, v, pay, start, misses, last, o, st, tail,
    d + (s₁ :: v :: pay ++ misses.flatMap Poll.answers ++ last.answers ++ tail).length, t, p, hstart, ht,
    Nat.le_add_right_of_le hd, hmisses, hlast, hpay, htail, hst, ?_⟩
  rw [hbody, State.payloadBytes_eq, SendOutcome.ok_eq, ← hcsn]
  rfl

/-- Settles O53: SEND is its body behind the checks. -/
theorem sendResult : Obligations.SendResult := by
  intro b s hq hinit hcsn hvalid
  obtain ⟨s₁, v, pay, start, misses, last, o, st, tail, d, t, p, hstart, ht, hd, hmisses, hlast, hpay, htail, hst,
    hbody⟩ := State.sendBody_ends (State.calm_start hq) hcsn (lengthOf b) hvalid
  rw [SendOutcome.word_eq] at hbody
  exact ⟨s₁, v, pay, start, misses, last, o, st, tail, d, t, hstart, ht, hd, hmisses, hlast, hpay, htail, hst,
    State.command_completes (State.compositeCheck_of_valid hinit hcsn hvalid) hbody rfl⟩

/-! ### AVAIL (R117) -/

/-- RX_DR as RESP's bit 0 (45_ack_sequencer.md R117; bit 6 of 30_encoding.md R66). -/
theorem bit_rxDr (v : Byte) : bit (rxDr v) = if v.getLsbD 6 then 1 else 0 := by
  rw [rxDr_eq]
  cases v.getLsbD 6 <;> rfl

/-- Settles O54: the scope of `State.readReg1` on STATUS, whose RX_DR RESP takes. -/
theorem availResult : Obligations.AvailResult := by
  intro s hq hinit hcsn
  obtain ⟨st, v, p, hscope⟩ := State.readReg1_calm (State.calm_start hq) Config.regStatus
  have hresp : ∀ u : State, u.lastStatus = st → u.tmp = v → bit (rxDr u.tmp) = if v.getLsbD 6 then 1 else 0 :=
    fun _ _ htmp => (bit_rxDr _).trans (by rw [htmp])
  exact ⟨st, v, State.composite_scope (ds := [v]) hinit hcsn (Memory.validTo_zero _) rfl hscope hresp⟩

/-! ### READ (R118) -/

/-- A command whose response is the value `v` of the state its body starts in, whatever the body has changed by the
time it responds. -/
theorem State.command_responds_from_start {check : Option FaultCode} {f : State → State} (v : State → Word)
    (hcheck : check = none) (hf : f s.start = u) (hbusy : u.busy = true) :
    (s.command check fun t => (f t).respond fun _ => v t) =
      .next { u with resp := v s.start, busy := false, upc := .idle } := by
  rw [hcheck]
  exact State.command_responds (fun _ => v s.start) rfl hf hbusy

theorem writeEvents_regStatus (v : Byte) : writeEvents Config.regStatus v = scopeEvents [0x27, v] := rfl

/-- A payload read and then a clearing write of STATUS, with the chip-select line deasserted: two scopes, each with its
own device status byte (45_ack_sequencer.md R118). -/
theorem State.readPayload_clearFlags_calm (h : s.calm) (hcsn : s.csn = true) (n : Nat) (m : Byte) :
    ∃ s₁ s₂ d ds drained p, ds.length = min n s.payloadSize.toNat ∧
      ds.length + drained.length = s.payloadSize.toNat ∧ (s.readPayload n).lastStatus = s₁ ∧
      (s.readPayload n).clearFlags m = { s with
        lastStatus := s₂, dbuf := s.dbuf.writeAll 0 ds, upc := p
        history := (scopeEvents (0x61 :: List.replicate s.payloadSize.toNat 0xFF) ++ scopeEvents [0x27, m]).reverse ++
          s.history
        answers := d :: s₂ :: ((ds ++ drained).reverse ++ s₁ :: s.answers)
        draws := s.draws + (3 + s.payloadSize.toNat) } := by
  obtain ⟨s₁, ds, drained, p₁, hdata, hblank, h₁⟩ := State.readPayload_calm h n
  have hlen : ds.length + drained.length = s.payloadSize.toNat := by
    rw [hdata, hblank, State.dataLength_add_blankLength]
  rw [State.dataLength_add_blankLength] at h₁
  have c₁ : (s.readPayload n).calm := by rw [h₁]; exact State.calm_of h rfl rfl
  obtain ⟨s₂, d, p₂, h₂⟩ := State.writeReg1_calm c₁ Config.regStatus m
  refine ⟨s₁, s₂, d, ds, drained, p₂, hdata, hlen, by rw [h₁]; rfl, ?_⟩
  rw [State.clearFlags, h₂, h₁, writeEvents_regStatus]
  simp [State.afterBus, hcsn, Config.cmdReadRxPayload, Config.dummyByte]
  omega

/-- Settles O55: RESP is the status of the payload read, which the clearing write has replaced in LAST_STATUS. -/
theorem readResult : Obligations.ReadResult := by
  intro b s hq hinit hcsn
  obtain ⟨s₁, s₂, d, ds, drained, p, hdata, hlen, hstatus, hbody⟩ :=
    State.readPayload_clearFlags_calm (State.calm_start hq) hcsn (lengthOf b) Config.maskRxDr
  have hexec := State.command_responds_from_start
    (f := fun t => (t.readPayload (lengthOf b)).clearFlags Config.maskRxDr)
    (fun t => zext (t.readPayload (lengthOf b)).lastStatus)
    (State.compositeCheck_of_valid hinit hcsn (Memory.validTo_zero _)) hbody rfl
  rw [hstatus] at hexec
  exact ⟨s₁, s₂, d, ds, drained, hdata, hlen, hexec⟩

end Sys2Proof.Machine
end

section
/-! The link consumer without the bus (46_link_consumer.md R119, R120, R123, R124): the motor mapping, the edge
detector over any samples, and the commands DEBOUNCE and MOTORMAP. -/

namespace Sys2Proof.Machine

variable {s : State}

/-! ### Bits of a response -/

/-- A bit at place `k` of a word. -/
theorem bit_shiftLeft (b : Bool) (k : Nat) : bit b <<< k = if b then (1 : Word) <<< k else 0 := by
  cases b
  case false => exact BitVec.zero_shiftLeft k
  case true => rfl

theorem bit_eq_ite (b : Bool) : bit b = if b then 1 else 0 := by cases b <;> rfl

/-! ### The motor mapping (R123) -/

/-- The cap keeps the duty in a byte. -/
theorem motorMagnitude_toNat (p : Packet) : (motorMagnitude p).toNat = min 255 (2 * p.y.natAbs) :=
  Nat.mod_eq_of_lt (Nat.lt_succ_of_le (Nat.min_le_left 255 (2 * p.y.natAbs)))

theorem State.motorOut_busy (hbusy : s.busy = true) (p : Packet) :
    s.motorOut p = { s with pwmL := motorLeft p, pwmR := motorRight p, dirFwd := motorForward p } :=
  State.assign_busy hbusy

/-- Settles O35: a motor that is not cut takes the magnitude. -/
theorem motorMapping : Obligations.MotorMapping := by
  refine ⟨fun p => ⟨?left, ?right, ?forward⟩, fun p s hbusy => State.motorOut_busy hbusy p, rfl, rfl⟩
  case left => rw [motorLeft, apply_ite BitVec.toNat, motorMagnitude_toNat]; rfl
  case right => rw [motorRight, apply_ite BitVec.toNat, motorMagnitude_toNat]; rfl
  case forward => exact decide_eq_true_iff

/-- Settles O57: the two valid bytes are the ones read, and the motors' registers are what RESP shows. -/
theorem motormapResult : Obligations.MotormapResult := by
  intro x y s hx hy
  have hcheck : s.dataCheck 2 = none := if_pos <| (Memory.validTo_iff _ _).2 fun k hk => by
    match k with
    | 0 => rw [hx]; rfl
    | 1 => rw [hy]; rfl
  have hbody : s.start.motorOut ⟨(s.start.dbufByte 0).toInt, (s.start.dbufByte 1).toInt, 0, 0⟩ =
      { s.start with
        pwmL := motorLeft ⟨x.toInt, y.toInt, 0, 0⟩, pwmR := motorRight ⟨x.toInt, y.toInt, 0, 0⟩
        dirFwd := decide (0 ≤ y.toInt) } := by
    rw [State.dbufByte_of_read (s := s.start) hx, State.dbufByte_of_read (s := s.start) hy, State.motorOut_busy rfl]
    rfl
  refine (State.command_responds _ hcheck hbody rfl).trans ?_
  simp only [bit_shiftLeft, decide_eq_true_eq]
  rfl

/-! ### The edge detector (R119, R120) -/

/-- ARMED after the sample `p`: a rising edge toggles it. -/
def State.armedAfter (s : State) (p : Bool) : Bool := if p && !s.prevPressed then !s.armed else s.armed

theorem State.edgeStep_busy (hbusy : s.busy = true) (p : Bool) :
    s.edgeStep p = { s with armed := s.armedAfter p, prevPressed := p } :=
  State.assign_busy hbusy

theorem exec_debounce (a : Byte) (s : State) :
    exec (.debounce a) s = .next { s with
      armed := s.armedAfter (level a), prevPressed := level a
      resp := if s.armedAfter (level a) then 1 else 0, busy := false, upc := .idle } := by
  rw [← bit_eq_ite]
  exact State.command_responds (fun s => bit s.armed) rfl (State.edgeStep_busy (s := s.start) rfl (level a)) rfl

/-- Settles O56: DEBOUNCE has no check and no step on the bus, so nothing can land in it. -/
theorem debounceResult : Obligations.DebounceResult := exec_debounce

/-- The operand of a sample's DEBOUNCE carries the sample. -/
theorem exec_debounceOf (p : Bool) (s : State) :
    exec (debounceOf p) s = .next { s with
      armed := s.armedAfter p, prevPressed := p, resp := if s.armedAfter p then 1 else 0, busy := false
      upc := .idle } := by
  have hlevel : level (if p then 1 else 0) = p := by cases p <;> rfl
  rw [debounceOf, exec_debounce, hlevel]

/-- Toggling once for the first edge and then once for each of the `n` others is toggling for all of them. -/
theorem armedAfter_bne_parity (s : State) (p : Bool) (n : Nat) :
    (s.armedAfter p != (n % 2 == 1)) = (s.armed != (((if p && !s.prevPressed then 1 else 0) + n) % 2 == 1)) := by
  have hparity : ((1 + n) % 2 == 1) = !(n % 2 == 1) := by
    rw [Bool.eq_iff_iff, Bool.not_eq_true', beq_iff_eq, beq_eq_false_iff_ne]
    omega
  rw [State.armedAfter]
  split
  · rw [hparity, Bool.not_bne, Bool.bne_not]
  · rw [Nat.zero_add]

/-- Settles O36, by induction on the samples. -/
theorem armedCountsRisingEdges : Obligations.ArmedCountsRisingEdges := by
  intro samples
  induction samples with
  | nil => exact fun s => ⟨s, rfl, (Bool.bne_false _).symm, rfl⟩
  | cons p samples ih =>
    intro s
    obtain ⟨t, hrun, harmed, hprev⟩ := ih { s with
      armed := s.armedAfter p, prevPressed := p, resp := if s.armedAfter p then 1 else 0, busy := false, upc := .idle }
    refine ⟨t, ?_, harmed.trans (armedAfter_bne_parity s p _), ?_⟩
    · rw [List.map_cons, runAll, exec_debounceOf]
      exact hrun
    · rw [hprev, List.getLastD_cons]

end Sys2Proof.Machine
end

section
/-! The control cycles (46_link_consumer.md R121, R122, R125, R126, R128): RXCYCLE with a packet and without one, as
whole states, and TXCYCLE as FRAME, SEND and a wait. -/

namespace Sys2Proof.Machine

variable {s u w : State}

/-! ### The packet in DBUF (R125) -/

theorem Packet.encode_decode (b0 b1 b2 b3 : Byte) : (Packet.decode b0 b1 b2 b3).encode = [b0, b1, b2, b3] :=
  packetRoundTrip.2 b0 b1 b2 b3

theorem Packet.toWord_decode (b0 b1 b2 b3 : Byte) : (Packet.decode b0 b1 b2 b3).toWord = wordOfBytes b0 b1 b2 b3 := by
  simp only [Packet.toWord, Packet.decode, trunc8_toInt]

/-- A packet byte that was written is what a read of it gives. -/
theorem State.packetBytes_getElem? {k : Nat} {b : Byte} (hk : k < 4) (hb : s.dbuf.read k = some b) :
    [s.packetByte 0, s.packetByte 1, s.packetByte 2, s.packetByte 3][k]? = some b := by
  change ((List.range 4).map s.packetByte)[k]? = some b
  rw [List.getElem?_map, List.getElem?_range hk, Option.map_some, State.packetByte, hb, Option.getD_some]

/-! ### RXCYCLE's receive part (R125) -/

/-- The status poll, with the chip-select line deasserted. -/
theorem State.pollStatus_calm (h : s.calm) (hcsn : s.csn = true) :
    ∃ s₁ v p, s.readReg1 Config.regStatus = { s with
      lastStatus := s₁, tmp := v, upc := p, history := (scopeEvents [0x07, 0xFF]).reverse ++ s.history
      answers := v :: s₁ :: s.answers, draws := s.draws + 2 } := by
  obtain ⟨s₁, v, p, hpoll⟩ := State.readReg1_calm h Config.regStatus
  refine ⟨s₁, v, p, ?_⟩
  rw [hpoll, ← hcsn]
  rfl

/-- The poll shows no data: nothing more is received. -/
theorem State.receive_of_not_rxDr (hdr : rxDr (s.readReg1 Config.regStatus).tmp = false) :
    s.receive = (s.readReg1 Config.regStatus, none) := by
  rw [State.receive]
  exact if_neg (Bool.eq_false_iff.1 hdr)

/-- The poll shows data: a payload is read, RX_DR is cleared, and the packet is what DBUF then holds. -/
theorem State.receive_of_rxDr (hdr : rxDr (s.readReg1 Config.regStatus).tmp = true)
    (hread : ((s.readReg1 Config.regStatus).readPayload Config.packetLen).clearFlags Config.maskRxDr = u) :
    s.receive = (u, some u.dbufPacket) := by
  subst hread
  rw [State.receive]
  exact if_pos hdr

/-- The receive part in a calm state: the poll alone, or the poll, the payload read and the clearing write. -/
theorem State.receive_calm (h : s.calm) (hcsn : s.csn = true) : ∃ s₁ v : Byte,
    (v.getLsbD 6 = false ∧ ∃ p, s.receive = ({ s with
      lastStatus := s₁, tmp := v, upc := p, history := (scopeEvents [0x07, 0xFF]).reverse ++ s.history
      answers := v :: s₁ :: s.answers, draws := s.draws + 2 }, none)) ∨
    v.getLsbD 6 = true ∧ ∃ (s₂ s₃ d : Byte) (ds drained : List Byte) (p : SeqPos) (u : State),
      ds.length = min 4 s.payloadSize.toNat ∧ ds.length + drained.length = s.payloadSize.toNat ∧
      s.receive = (u, some u.dbufPacket) ∧ u = { s with
        lastStatus := s₃, tmp := v, upc := p, dbuf := s.dbuf.writeAll 0 ds
        history := (scopeEvents [0x07, 0xFF] ++ scopeEvents (0x61 :: List.replicate s.payloadSize.toNat 0xFF) ++
          scopeEvents [0x27, 0x40]).reverse ++ s.history
        answers := d :: s₃ :: ((ds ++ drained).reverse ++ s₂ :: v :: s₁ :: s.answers)
        draws := s.draws + (5 + s.payloadSize.toNat) } := by
  obtain ⟨s₁, v, p, hpoll⟩ := State.pollStatus_calm h hcsn
  have hpolled : (s.readReg1 Config.regStatus).calm := by rw [hpoll]; exact State.calm_of h rfl rfl
  have hdr : rxDr (s.readReg1 Config.regStatus).tmp = v.getLsbD 6 := by rw [hpoll]; exact rxDr_eq v
  refine ⟨s₁, v, ?_⟩
  cases hv : v.getLsbD 6 with
  | false => exact .inl ⟨rfl, p, by rw [State.receive_of_not_rxDr (hdr.trans hv), hpoll]⟩
  | true =>
    obtain ⟨s₂, s₃, d, ds, drained, p', hdata, hlen, -, hread⟩ :=
      State.readPayload_clearFlags_calm hpolled (by rw [hpoll]; exact hcsn) Config.packetLen Config.maskRxDr
    rw [hpoll] at hdata hlen
    refine .inr ⟨rfl, s₂, s₃, d, ds, drained, p', _, hdata, hlen, State.receive_of_rxDr (hdr.trans hv) rfl, ?_⟩
    have hdraws : s.draws + (5 + s.payloadSize.toNat) = s.draws + 2 + (3 + s.payloadSize.toNat) := by omega
    rw [hread, hpoll, hdraws, List.append_assoc, List.reverse_append (as := scopeEvents [0x07, 0xFF]),
      List.append_assoc]
    rfl

/-! ### RXCYCLE's output part (R121, R123) -/

/-- A lost cycle is counted up to 255. -/
theorem missedNext_toNat (m : Nat) : (BitVec.ofNat 8 (min (m + 1) 255)).toNat = min (m + 1) 255 :=
  Nat.mod_eq_of_lt (Nat.lt_succ_of_le (Nat.min_le_right (m + 1) 255))

/-- The packet that drives the outputs is the one left in DBUF. -/
theorem State.output_busy (hbusy : s.busy = true) (p : Packet) : (s.motorOut p).storePacket p = { s with
    pwmL := motorLeft p, pwmR := motorRight p, dirFwd := motorForward p, dbuf := s.dbuf.writeAll 0 p.encode } := by
  rw [State.motorOut_busy hbusy]
  exact State.assign_busy hbusy

/-- A cycle without a packet: a count of at least 1 is above `LOS_HOLD_CYCLES`, so that the neutral packet drives the
outputs at once. -/
theorem State.consume_none (hbusy : s.busy = true) : s.consume none = { s with
    missed := BitVec.ofNat 8 (min (s.missed.toNat + 1) 255), signalPresent := false, pwmL := 0, pwmR := 0
    dirFwd := true, dbuf := s.dbuf.writeAll 0 [0x00, 0x00, 0x01, 0x01] } := by
  have hlos : s.losStep none = { s with
      missed := BitVec.ofNat 8 (min (s.missed.toNat + 1) 255), signalPresent := false } := State.assign_busy hbusy
  have hneutral : (s.losStep none).effective none = Packet.neutral := by
    refine if_neg ?_
    rw [hlos, missedNext_toNat, Config.losHoldCycles]
    omega
  have hbusy' : (s.losStep none).busy = true := by rw [hlos]; exact hbusy
  rw [State.consume, hneutral, State.output_busy hbusy', hlos]
  rfl

/-- A cycle with the packet `p`: it is kept, and it drives the outputs. -/
theorem State.consume_some (hbusy : s.busy = true) (p : Packet) : s.consume (some p) = { s with
    lastPkt := p.toWord, missed := 0, signalPresent := true, pwmL := motorLeft p, pwmR := motorRight p
    dirFwd := motorForward p, dbuf := s.dbuf.writeAll 0 p.encode } := by
  have hlos : s.losStep (some p) = { s with lastPkt := p.toWord, missed := 0, signalPresent := true } :=
    State.assign_busy hbusy
  have hbusy' : (s.losStep (some p)).busy = true := by rw [hlos]; exact hbusy
  rw [State.consume, State.effective, State.output_busy hbusy', hlos]

/-! ### RXCYCLE (R125) -/

theorem State.rxResponse_eq (s : State) : s.rxResponse = (if s.signalPresent then 0x00000001 else 0 : Word) |||
    (if s.armed then 0x00000002 else 0 : Word) ||| s.pwmL.setWidth 32 <<< 8 ||| s.pwmR.setWidth 32 <<< 16 |||
    (if s.dirFwd then 0x01000000 else 0 : Word) := by
  rw [State.rxResponse, bit_eq_ite, bit_shiftLeft, bit_shiftLeft]
  rfl

/-- Without a signal and with the motors off, ARMED and DIR_FWD are what RESP shows. -/
theorem State.rxResponse_of_lost (hsignal : s.signalPresent = false) (hleft : s.pwmL = 0) (hright : s.pwmR = 0)
    (hforward : s.dirFwd = true) :
    s.rxResponse = (if s.armed then 0x00000002 else 0 : Word) ||| 0x01000000 := by
  rw [State.rxResponse_eq, hsignal, hleft, hright, hforward]
  cases s.armed <;> rfl

/-- RXCYCLE past its checks: the edge detector, what it receives, what it makes of that, the wait, and RESP. -/
theorem exec_rxcycle_of_receive {a : Byte} {got : Option Packet} (hinit : s.init = true) (hcsn : s.csn = true)
    (hreceive : (s.start.edgeStep (level a)).receive = (u, got)) (hconsume : u.consume got = w) (hcalm : w.calm) :
    exec (.rxcycle a) s = .next { w with
      resp := w.rxResponse, busy := false, upc := .idle
      history := .wait (1000 * Config.rxCycleMs) :: w.history, time := w.time + Config.rxCycleMs } := by
  refine State.command_responds
    (f := fun s => ((s.edgeStep (level a)).receive.1.consume (s.edgeStep (level a)).receive.2).wait
      (1000 * Config.rxCycleMs))
    (u := w.afterBus [.wait (1000 * Config.rxCycleMs)] [] (w.time + Config.rxCycleMs) w.upc.next)
    State.rxResponse (State.compositeCheck_of_valid hinit hcsn (Memory.validTo_zero _)) ?_ hcalm.1
  rw [hreceive, hconsume, State.wait_calm hcalm, Nat.mul_div_cancel_left _ (by decide)]

/-- RXCYCLE without a packet, from the state `u` that its receive part leaves. -/
theorem exec_rxcycle_of_lost {a : Byte} (hinit : s.init = true) (hcsn : s.csn = true)
    (hreceive : (s.start.edgeStep (level a)).receive = (u, none)) (hcalm : u.calm) :
    exec (.rxcycle a) s = .next { u with
      missed := BitVec.ofNat 8 (min (u.missed.toNat + 1) 255), signalPresent := false, pwmL := 0, pwmR := 0
      dirFwd := true, dbuf := u.dbuf.writeAll 0 [0x00, 0x00, 0x01, 0x01]
      resp := (if u.armed then 0x00000002 else 0 : Word) ||| 0x01000000, busy := false, upc := .idle
      history := .wait (1000 * Config.rxCycleMs) :: u.history, time := u.time + Config.rxCycleMs } := by
  rw [exec_rxcycle_of_receive hinit hcsn hreceive (State.consume_none hcalm.1) (State.calm_of hcalm rfl rfl),
    State.rxResponse_of_lost rfl rfl rfl rfl]

/-- RXCYCLE with the packet `p`, from the state `u` that its receive part leaves. -/
theorem exec_rxcycle_of_packet {a : Byte} {p : Packet} (hinit : s.init = true) (hcsn : s.csn = true)
    (hreceive : (s.start.edgeStep (level a)).receive = (u, some p)) (hcalm : u.calm) :
    exec (.rxcycle a) s = .next { u with
      lastPkt := p.toWord, missed := 0, signalPresent := true, pwmL := motorLeft p, pwmR := motorRight p
      dirFwd := motorForward p, dbuf := u.dbuf.writeAll 0 p.encode
      resp := (0x00000001 : Word) ||| (if u.armed then 0x00000002 else 0 : Word) |||
        (motorLeft p).setWidth 32 <<< 8 ||| (motorRight p).setWidth 32 <<< 16 |||
        (if 0 ≤ p.y then 0x01000000 else 0 : Word)
      busy := false, upc := .idle
      history := .wait (1000 * Config.rxCycleMs) :: u.history, time := u.time + Config.rxCycleMs } := by
  rw [exec_rxcycle_of_receive hinit hcsn hreceive (State.consume_some hcalm.1 p) (State.calm_of hcalm rfl rfl),
    State.rxResponse_eq]
  simp only [motorForward, decide_eq_true_eq]
  rfl

/-- Settles O58: each of the two things that the status poll can show. -/
theorem rxcycleResult : Obligations.RxcycleResult := by
  intro a s hq hinit hcsn
  have hcalm : (s.start.edgeStep (level a)).calm := State.calm_of (State.calm_start hq) rfl rfl
  obtain ⟨s₁, v, ⟨hv, p, hreceive⟩ | ⟨hv, s₂, s₃, d, ds, drained, p, u, hdata, hlen, hreceive, hu⟩⟩ :=
    State.receive_calm hcalm hcsn
  case inl =>
    refine .inl ⟨s₁, v, hv, ?_⟩
    rw [exec_rxcycle_of_lost hinit hcsn hreceive (State.calm_of hcalm rfl rfl), List.reverse_append]
    rfl
  case inr =>
    have hcalm' : u.calm := by rw [hu]; exact State.calm_of hcalm rfl rfl
    refine .inr ⟨s₁, v, s₂, s₃, d, ds, drained, u.packetByte 0, u.packetByte 1, u.packetByte 2, u.packetByte 3, hv,
      hdata, hlen, fun k b hk hb => State.packetBytes_getElem? hk (by rw [hu]; exact hb), ?_⟩
    rw [exec_rxcycle_of_packet hinit hcsn hreceive hcalm', State.dbufPacket, Packet.toWord_decode,
      Packet.encode_decode, List.reverse_append]
    generalize u.packetByte 0 = b0, u.packetByte 1 = b1, u.packetByte 2 = b2, u.packetByte 3 = b3
    rw [hu]
    rfl

/-! ### Signal loss (R122, R128) -/

/-- The second answer that a command draws, whatever else it draws later. -/
theorem second_answer_of_suffix {answers before : List Byte} {s₁ v : Byte} (h : v :: s₁ :: before <:+ answers) :
    answers.reverse[before.length + 1]? = some v := by
  obtain ⟨later, rfl⟩ := h
  simp

/-- What the status poll of an RXCYCLE shows decides the signal, the count of lost cycles and the motors. -/
theorem rxcycle_polled (a : Byte) (hq : s.quiet = true) (hinit : s.init = true) (hcsn : s.csn = true) :
    ∃ (t : State) (v : Byte), exec (.rxcycle a) s = .next t ∧ t.answers.reverse[s.answers.length + 1]? = some v ∧
      (v.getLsbD 6 = false ∧ t.signalPresent = false ∧ t.missed.toNat = min (s.missed.toNat + 1) 255 ∧
        t.motorsOff = true ∧ t.lastPkt = s.lastPkt ∨
      v.getLsbD 6 = true ∧ t.signalPresent = true ∧ t.missed = 0) := by
  rcases rxcycleResult a s hq hinit hcsn with
    ⟨s₁, v, hv, hexec⟩ | ⟨s₁, v, s₂, s₃, d, ds, drained, b0, b1, b2, b3, hv, -, -, -, hexec⟩
  · exact ⟨_, v, hexec, second_answer_of_suffix (List.suffix_refl _),
      .inl ⟨hv, rfl, missedNext_toNat s.missed.toNat, rfl, rfl⟩⟩
  · refine ⟨_, v, hexec, second_answer_of_suffix (s₁ := s₁) ⟨d :: s₃ :: ((ds ++ drained).reverse ++ [s₂]), ?_⟩,
      .inr ⟨hv, rfl, rfl⟩⟩
    simp

/-- Settles O23: without data the neutral packet drives the motors, and LASTPKT is not written. -/
theorem noSignalStopsMotors : Obligations.NoSignalStopsMotors := by
  intro s a hq hinit hcsn
  obtain ⟨t, v, hexec, hanswer, ⟨-, -, -, hoff, hkept⟩ | ⟨hv, -⟩⟩ := rxcycle_polled a hq hinit hcsn
  · exact ⟨t, v, hexec, hanswer, .inr ⟨hoff, hkept⟩⟩
  · exact ⟨t, v, hexec, hanswer, .inl hv⟩

theorem State.HostTouched.missed {s t : State} (h : s.HostTouched t) : t.missed = s.missed := by rw [h.frame]

theorem State.hostAccess_missed (s : State) (a : HostAccess) : (s.hostAccess a).missed = s.missed := by
  rcases s.hostAccess_cases a with ⟨w, -, heq⟩ | htouched
  · rw [heq]; rfl
  · exact htouched.missed

/-- Settles O22: RXCYCLE is the one command that may write the two, and it does so by what its poll shows. -/
theorem missedCountsLostCycles : Obligations.MissedCountsLostCycles := by
  refine ⟨rfl, fun s a => ⟨rfl, s.hostAccess_missed a⟩, ?others, ?rxcycle⟩
  case others =>
    intro i s t hother hno hexec
    rcases exec_cases_of_noReset hno hexec with ⟨c, -, rfl⟩ | ⟨-, hcompletes⟩
    · exact ⟨s.commandFault_missed c, s.commandFault_signalPresent c⟩
    · rcases hcompletes.signal with ⟨hsignal, hmissed⟩ | ⟨hrxcycle, -⟩
      · exact ⟨hmissed, hsignal⟩
      · rw [hother] at hrxcycle
        cases hrxcycle
  case rxcycle =>
    intro s a hq hinit hcsn
    obtain ⟨t, v, hexec, hanswer, ⟨hv, hsignal, hmissed, -⟩ | ⟨hv, hsignal, hmissed⟩⟩ :=
      rxcycle_polled a hq hinit hcsn
    · exact ⟨t, v, hexec, hanswer, hsignal.trans hv.symm, by rw [hv, if_neg Bool.false_ne_true, hmissed]⟩
    · exact ⟨t, v, hexec, hanswer, hsignal.trans hv.symm, by rw [hv, if_pos rfl, hmissed]; rfl⟩

/-! ### TXCYCLE (R126) -/

/-- The bytes just stored are the bytes sent. -/
theorem State.dbufBytes_of_writeAll {m : Memory} {bs : List Byte} {n : Nat} (hdbuf : s.dbuf = m.writeAll 0 bs)
    (hn : n ≤ bs.length) : s.dbufBytes 0 n = bs.take n := by
  refine List.ext_getElem? fun k => ?_
  by_cases hk : k < n
  · have hlen : k < bs.length := hk.trans_le hn
    have hread : s.dbuf.read k = some bs[k] := by
      rw [hdbuf, Memory.read_writeAll, if_pos (by omega), Nat.sub_zero, List.getElem?_eq_getElem hlen]
    rw [State.dbufBytes_getElem? hk hread, List.getElem?_take_of_lt hk, List.getElem?_eq_getElem hlen]
  · rw [List.getElem?_eq_none (by rw [State.length_dbufBytes]; omega), List.getElem?_eq_none (by simp; omega)]

/-- Settles O59: FRAME's packet is valid data for SEND, whose end the wait follows. -/
theorem txcycleResult : Obligations.TxcycleResult := by
  intro ax ay trg sw s hq hinit hcsn
  have hframe := State.frameBody_registers (State.calm_start hq) ax ay trg sw
  have hdbuf : (s.start.frameBody ax ay trg sw).dbuf = s.dbuf.writeAll 0 (framePacket ax ay trg sw).encode := by
    rw [hframe]; rfl
  have hcalm : (s.start.frameBody ax ay trg sw).calm := by
    rw [hframe]; exact State.calm_of (State.calm_start hq) rfl rfl
  have hvalid : (s.start.frameBody ax ay trg sw).dbuf.validTo
      (min 4 (s.start.frameBody ax ay trg sw).payloadSize.toNat) = true := by
    rw [hdbuf]; exact validTo_writeAll _ _ (Nat.min_le_left _ _)
  obtain ⟨s₁, v, pay, start, misses, last, o, st, tail, d, t, p, hstart, ht, hd, hmisses, hlast, hpay, htail, hst,
    hsend⟩ := State.sendBody_ends hcalm (by rw [hframe]; exact hcsn) 4 hvalid
  have hcalm' : ((s.start.frameBody ax ay trg sw).sendBody 4).calm := by
    rw [hsend]; exact State.calm_of hcalm rfl rfl
  rw [State.dbufBytes_of_writeAll hdbuf (Nat.min_le_left 4 _)] at hsend
  have hexec := State.command_completes
    (f := fun s => ((s.frameBody ax ay trg sw).sendBody 4).wait 20000)
    (State.compositeCheck_of_valid hinit hcsn (Memory.validTo_zero _)) (State.wait_calm hcalm' 20000) hcalm'.1
  rw [hsend, SendOutcome.word_eq, hframe, framePacket_encode] at hexec
  rw [hframe] at hstart hd hpay
  refine ⟨s₁, v, pay, start, misses, last, o, st, tail, d, t, hstart, ht, hd, hmisses, hlast, hpay, htail, hst, ?_⟩
  rw [List.reverse_append (bs := [Event.wait 20000])]
  exact hexec

end Sys2Proof.Machine
end

section
/-! The clock and the failing checks (60_exceptions.md R132 to R140): true time goes forward in every step, SEND's loop
sees it as it is, and the check that fails first is all that a faulting command shows. -/

namespace Sys2Proof.Machine

variable {s t : State}

/-! ### The first failing check (R132 to R138) -/

/-- Only decoding raises FAULT_ILLEGAL: no check does (60_exceptions.md R134, R135). -/
theorem State.firstFault_ne_illegal {i : Instr} {c : FaultCode} (hfault : s.firstFault i = some c) : c ≠ .illegal := by
  rintro rfl
  unfold State.firstFault at hfault
  split_ifs at hfault <;> cases hfault

/-- The fault action of a check, field by field (R133). -/
theorem State.commandFault_of_ne_illegal (s : State) {c : FaultCode} (hc : c ≠ .illegal) :
    s.commandFault c = { s with
      fNotInit := s.fNotInit || c == .notInit
      fUndefData := s.fUndefData || c == .undefData
      fBusOpen := s.fBusOpen || c == .busOpen
      resp := 0x80000000 ||| c.code
      busy := false
      upc := .idle } := by
  cases c with
  | illegal => exact absurd rfl hc
  | notInit => simp [State.commandFault, State.setFaultBit]
  | undefData => simp [State.commandFault, State.setFaultBit]
  | busOpen => simp [State.commandFault, State.setFaultBit]

/-- Settles O14: the first failing check ends any instruction in the fault action, which is never FAULT_ILLEGAL's. -/
theorem firstFailingCheckFaults : Obligations.FirstFailingCheckFaults := by
  refine ⟨fun i s c hfault => ?fault, fun m n => ?data⟩
  case fault =>
    rw [(exec_outcome s i).fault c hfault, s.commandFault_of_ne_illegal (State.firstFault_ne_illegal hfault)]
    cases c <;> rfl
  case data => simp only [Memory.validTo_iff, Option.isSome_iff_ne_none]

/-! ### SEND's deadline test (R140; 45_ack_sequencer.md R115) -/

/-- Under laws 1 and 2 the wrapping test of R115 compares true times. -/
theorem deadlinePassed_iff {start now : Nat} (hge : start ≤ now) (hlt : now < start + 2 ^ 32) :
    deadlinePassed (BitVec.ofNat 32 now) (BitVec.ofNat 32 start) = true ↔ start + 50 ≤ now := by
  rw [deadlinePassed, decide_eq_true_eq, elapsed_eq hge hlt, Config.sendTimeoutMs]
  omega

/-- Settles O37: a lawful read lies in the window in which the test compares true times; law 3 and the late read are
already known to pass it. -/
theorem pollClockLaws : Obligations.PollClockLaws := by
  refine ⟨fun s start hge hlt => ?lawful, State.le_pollTime, fun s start last hlate => ?late⟩
  case late => exact State.deadlinePassed_late hlate last
  case lawful =>
    have hread : ∀ last, start ≤ s.pollTime start last := fun last => hge.trans (s.le_pollTime start last)
    have hwindow : ∀ last, s.pollTime start last < start + 2 ^ 32 := State.pollTime_lt hlt
    refine ⟨fun last => ⟨s.le_pollTime start last, hwindow last, elapsed_eq (hread last) (hwindow last),
      deadlinePassed_iff (hread last) (hwindow last)⟩, ?_⟩
    exact (deadlinePassed_iff (hread true) (hwindow true)).1 (s.deadlinePassed_last start)

/-! ### True time (R140, law 1) -/

/-- Neither an instruction's end nor a reset inside it takes true time back. -/
theorem State.Ends.time_le {t' : State} (h : s.Ends t t') : s.time ≤ t.time := by
  rcases h with ⟨-, -, hgrows, -⟩ | habandoned
  · exact hgrows.time
  · exact habandoned.time

theorem State.HostTouched.time (h : s.HostTouched t) : t.time = s.time := by rw [h.frame]

/-- What the outside world does takes no true time, and a reset does not reach the clock (70_reset_and_hazards.md
R149). -/
theorem State.perform_time (s : State) (act : Action) : (s.perform act).time = s.time := by
  cases act with
  | access a =>
    rcases s.hostAccess_cases a with ⟨w, -, heq⟩ | htouched
    · rw [State.perform_access, heq, State.latchCommand_time]
    · exact htouched.time
  | reset => exact s.resetInput_time

/-- Settles O25: the sequencer's turn keeps or advances true time, and every other step keeps it. -/
theorem timeNeverDecreases : Obligations.TimeNeverDecreases := by
  intro s t hstep
  rcases step_cases hstep with ⟨-, hrun⟩ | ⟨i, rest, -, -, rfl⟩ | ⟨-, rfl⟩
  · obtain ⟨t₁, t', hrun₁, -, hends⟩ := s.runSequencer_ends
    cases hrun.symm.trans hrun₁
    exact hends.time_le
  · exact (State.perform_time { s with inputs := rest } i.act).ge
  · exact le_rfl

end Sys2Proof.Machine
end

section
/-! Reset (70_reset_and_hazards.md R148, R149): the state it leaves, and that it abandons the command it lands in. -/

namespace Sys2Proof.Machine

variable {s t : State}

/-! ### The state after reset -/

/-- Settles O18. -/
theorem resetIsSound : Obligations.ResetIsSound := State.reset_sound

/-- BSTAT, MOTOR and LINK of the reset state, as the host reads them (10_state.md R21, R33, R34). -/
theorem State.reset_packed : State.reset.bstat = 0x20000010 ∧ State.reset.motor = 0x00010000 ∧
    State.reset.link = 0 := by decide

/-- Settles O29: the reset input leaves every register at the reset state's value by definition, so the packed words of
the reset state are those of both. -/
theorem resetValues : Obligations.ResetValues := by
  obtain ⟨hbstat, hmotor, hlink⟩ := State.reset_packed
  intro s r hr
  rcases List.mem_pair.1 hr with rfl | rfl <;>
    exact ⟨rfl, rfl, hbstat, rfl, hmotor, hlink, fun _ => rfl, rfl, rfl, rfl, rfl, rfl, rfl, rfl, rfl, rfl⟩

/-! ### A reset inside a command -/

/-- A command that ends with one more reset recorded did not end by itself. -/
theorem State.Ends.abandoned_of_resets_lt {t' : State} (h : s.Ends t t') (hresets : s.resets < t.resets) :
    s.Abandoned t := by
  rcases h with ⟨-, -, hgrows, -⟩ | habandoned
  · exact absurd hgrows.resets_eq hresets.ne'
  · exact habandoned

/-- Nothing is recorded after the reset that abandoned the command. -/
theorem State.Abandoned.history_head? (h : s.Abandoned t) : t.history.head? = some .reset := by
  obtain ⟨evs, hhist, -⟩ := h.events
  rw [hhist, List.cons_append, List.head?_cons]

/-- Settles O30: of the two ways a command can end only abandonment counts a reset, and where the reset lands is what a
due action and the boundary after a sequencer step do with it. -/
theorem resetAbandonsCommand : Obligations.ResetAbandonsCommand := by
  refine ⟨?inside, ?before, ?after, ?later, ?landed⟩
  case inside =>
    intro i s t hexec hresets
    obtain ⟨t₁, t', hexec₁, -, hends⟩ := exec_ends i s
    cases hexec.symm.trans hexec₁
    have habandoned := hends.abandoned_of_resets_lt hresets
    exact ⟨habandoned.history_head?, habandoned.registers⟩
  case before => exact fun s rest hinputs => step_of_due hinputs rfl
  case after => exact fun f s n rest hbusy hn hinputs => State.tick_reset hbusy hn hinputs
  case later => exact fun f s n rest hbusy hinputs => State.tick_later hbusy rfl hinputs
  case landed => exact fun f s hidle => ⟨State.tick_idle hidle, State.assign_idle hidle⟩

end Sys2Proof.Machine
end
